-- ==== Sys2Proof/Word.lean ====
section
/-! DEFINITION. The word types of the machine (`00_scope.md` R5, R7): bytes, 16-bit words, register numbers. -/

namespace Sys2Proof

/-- A memory byte or a general register's value (R5: 8 bits). -/
abbrev Byte := BitVec 8

/-- A 16-bit value: an instruction word, `I`, `pc`, `sp`, a return address (R5). -/
abbrev Word := BitVec 16

/-- A general register's number, "indexed 0–15" (R11), and a key identifier (R20). -/
abbrev RegIdx := Fin 16

end Sys2Proof
end

