-- ==== Sys2Proof/Config.lean ====
section
/-! DEFINITION. What the spec makes a parameter of the model (`00_scope.md` R6), and the free values: what the host
chooses and no rule fixes. The spec's default values of the parameters, and what a legal choice of them is
(`20_memory.md` R47), stand in `Machine/Params.lean`. -/

namespace Sys2Proof

/-- The parameters of R6 (`MEM_SIZE` and `TICK` are fixed there and are no fields). A machine is taken with any choice of
them: the choice stands in the field `cfg` of its state, which no event changes (log 26). -/
structure Config where
  /-- `PROGRAM_BASE` -/
  programBase : Nat
  /-- `FONT_BASE` -/
  fontBase : Nat
  /-- `VIDEO_BASE` -/
  videoBase : Nat
  /-- `FONT_DATA` -/
  fontData : List Byte
  /-- `STACK_DEPTH` -/
  stackDepth : Nat
  /-- `TONE_NOP_NN` -/
  toneNopNN : List Byte
  deriving DecidableEq, Repr

/-- FREE VALUE (log 7). The random byte of the `n`-th `Advance` that the host issues beyond the listed events: no
rule fixes it (`45_index_random.md` R132), so it has no body. -/
opaque Config.freeRnd : Nat → Byte

/-- FREE VALUE (log 8). Numerator of the time, in seconds, supplied to the `n`-th `Advance` beyond the listed
events: the host chooses it (`60_exceptions.md` R205, R227). -/
opaque Config.freeElapsedNum : Nat → Nat

/-- FREE VALUE (log 8). Denominator, less one, of the time of `Config.freeElapsedNum`. -/
opaque Config.freeElapsedDen : Nat → Nat

end Sys2Proof
end

