-- ==== Sys2Proof/Machine/Params.lean ====
section
/-! DEFINITION. The defaults the spec gives the parameters of `00_scope.md` R6, the size it fixes (R5), the
derived ends of the program region and the legal choices (`20_memory.md` R47), and the reset image of memory. They
stand here, below `Machine/`, so that a repair can mend a value. -/

namespace Sys2Proof.Machine

/-- `MEM_SIZE` (R5, R40): valid addresses are 0 to 4095. -/
def memSize : Nat := 4096

/-- The default `FONT_DATA` (`20_memory.md` R46; PRESUMED by the spec itself, log 4), one glyph a line. -/
def fontDigits : List Byte :=
  [0xF0, 0x90, 0x90, 0x90, 0xF0,
   0x20, 0x60, 0x20, 0x20, 0x70,
   0xF0, 0x10, 0xF0, 0x80, 0xF0,
   0xF0, 0x10, 0xF0, 0x10, 0xF0,
   0x90, 0x90, 0xF0, 0x10, 0x10,
   0xF0, 0x80, 0xF0, 0x10, 0xF0,
   0xF0, 0x80, 0xF0, 0x90, 0xF0,
   0xF0, 0x10, 0x20, 0x40, 0x40]

/-- The second half of the default `FONT_DATA`, digits 8 to F (R46, log 4). -/
def fontLetters : List Byte :=
  [0xF0, 0x90, 0xF0, 0x90, 0xF0,
   0xF0, 0x90, 0xF0, 0x10, 0xF0,
   0xF0, 0x90, 0xF0, 0x90, 0x90,
   0xE0, 0x90, 0xE0, 0x90, 0xE0,
   0xF0, 0x80, 0x80, 0x80, 0xF0,
   0xE0, 0x90, 0x90, 0x90, 0xE0,
   0xF0, 0x80, 0xF0, 0x80, 0xF0,
   0xF0, 0x80, 0xF0, 0x80, 0x80]

/-- The spec's defaults (R6, decisions D1 to D6 and D14; log 1 to 6). -/
def defaultConfig : Config where
  programBase := 0x200
  fontBase := 0x050
  videoBase := 0xF00
  fontData := fontDigits ++ fontLetters
  stackDepth := 16
  toneNopNN := [0x17, 0x18]

/-- `PROGRAM_END` (R47): the smallest of 4096 and whichever of the font and video bases lie above the program's. -/
def programEnd (c : Config) : Nat :=
  min memSize (min (if c.fontBase > c.programBase then c.fontBase else memSize)
    (if c.videoBase > c.programBase then c.videoBase else memSize))

/-- `PROGRAM_MAX` (R47): the longest program image `Construct` accepts. -/
def programMax (c : Config) : Nat := programEnd c - c.programBase

/-- Two intervals of addresses, each a base and a length, do not meet (R47). -/
abbrev apart (a n b m : Nat) : Prop := a + n ≤ b ∨ b + m ≤ a

/-- The sub-opcodes of group 0xF that the opcode table fixes; `TONE_NOP_NN` must be disjoint from them (R67). -/
def fixedGroupF : List Byte := [0x00, 0x07, 0x0A, 0x15, 0x1E, 0x29, 0x33, 0x55, 0x65]

/-- A legal choice of the parameters: the constraints of R47, the 80 font bytes of R46, `TONE_NOP_NN` disjoint from
the other sub-opcodes of group 0xF (R67), and a stack whose byte offsets fit the 16-bit `sp` (R16). -/
abbrev legalConfig (c : Config) : Prop :=
  c.fontBase + 80 ≤ memSize ∧ c.videoBase + 256 ≤ memSize ∧ c.programBase ≤ 4094 ∧
  apart c.fontBase 80 c.videoBase 256 ∧
  apart c.fontBase 80 c.programBase (programMax c) ∧
  apart c.videoBase 256 c.programBase (programMax c) ∧
  c.fontData.length = 80 ∧
  (∀ nn ∈ c.toneNopNN, nn ∉ fixedGroupF) ∧
  2 * c.stackDepth < 65536

/-- What address `a` reads as after reset, and until it is written: the font bytes at `FONT_BASE`, zero elsewhere
(`20_memory.md` R45, before the program bytes are copied). -/
def resetByte (c : Config) (a : Nat) : Byte :=
  if c.fontBase ≤ a ∧ a < c.fontBase + 80 then c.fontData.getD (a - c.fontBase) 0 else 0

end Sys2Proof.Machine
end

