-- ==== Sys2Proof/Syntax.lean ====
section
/-! DEFINITION. The 37 instructions of `30_encoding.md` R64, one constructor per row of `spec/opcode_table.json`, and one
constructor for the further members that the parameter `TONE_NOP_NN` may have (R65, R67). Operands are the fields
the row's "operands used" column names (R61, R62); an ignored field (R68) is no operand. -/

namespace Sys2Proof

/-- One instruction. `x`, `y` are register numbers, `nn` an immediate byte, `nnn` a 12-bit address, `n` a row count. -/
inductive Instr where
  /-- `0h00` NOP (R80) -/
  | nop
  /-- `0hE0` CLS (R81) -/
  | cls
  /-- `0hEE` RET (R82) -/
  | ret
  /-- `1nnn` JP NNN (R91) -/
  | jp (nnn : BitVec 12)
  /-- `2nnn` CALL NNN (R92) -/
  | call (nnn : BitVec 12)
  /-- `3xnn` SE Vx,NN (R101) -/
  | seImm (x : RegIdx) (nn : Byte)
  /-- `4xnn` SNE Vx,NN (R102) -/
  | sneImm (x : RegIdx) (nn : Byte)
  /-- `5xy0` SE Vx,Vy (R103) -/
  | seReg (x y : RegIdx)
  /-- `6xnn` LD Vx,NN (R110) -/
  | ldImm (x : RegIdx) (nn : Byte)
  /-- `7xnn` ADD Vx,NN (R111) -/
  | addImm (x : RegIdx) (nn : Byte)
  /-- `8xy0` LD Vx,Vy (R116) -/
  | ldReg (x y : RegIdx)
  /-- `8xy1` OR Vx,Vy (R117) -/
  | orReg (x y : RegIdx)
  /-- `8xy2` AND Vx,Vy (R118) -/
  | andReg (x y : RegIdx)
  /-- `8xy3` XOR Vx,Vy (R119) -/
  | xorReg (x y : RegIdx)
  /-- `8xy4` ADD Vx,Vy (R120) -/
  | addReg (x y : RegIdx)
  /-- `8xy5` SUB Vx,Vy (R121) -/
  | subReg (x y : RegIdx)
  /-- `8xh6` SHR Vx (R122) -/
  | shr (x : RegIdx)
  /-- `8xy7` SUBN Vx,Vy (R123) -/
  | subnReg (x y : RegIdx)
  /-- `8xhE` SHL Vx (R124) -/
  | shl (x : RegIdx)
  /-- `9xy0` SNE Vx,Vy (R104) -/
  | sneReg (x y : RegIdx)
  /-- `Annn` LD I,NNN (R130) -/
  | ldI (nnn : BitVec 12)
  /-- `Bnnn` JP V0,NNN (R93) -/
  | jpV0 (nnn : BitVec 12)
  /-- `Cxnn` RND Vx,NN (R131) -/
  | rnd (x : RegIdx) (nn : Byte)
  /-- `Dxyn` DRW Vx,Vy,N (R135) -/
  | drw (x y : RegIdx) (n : Fin 16)
  /-- `Ex9E` SKP Vx (R146) -/
  | skp (x : RegIdx)
  /-- `ExA1` SKNP Vx (R147) -/
  | sknp (x : RegIdx)
  /-- `Fh00` STOP (R155) -/
  | stop
  /-- `Fx07` LD Vx,DT (R156) -/
  | ldVxDT (x : RegIdx)
  /-- `Fx0A` LD Vx,K (R148) -/
  | ldVxK (x : RegIdx)
  /-- `Fx15` LD DT,Vx (R157) -/
  | ldDTVx (x : RegIdx)
  /-- `Fh17` PITCH Vx (R159) -/
  | pitch
  /-- `Fh18` TONE Vx (R160) -/
  | tone
  /-- `Fx1E` ADD I,Vx (R161) -/
  | addI (x : RegIdx)
  /-- `Fx29` LD F,Vx (R162) -/
  | ldF (x : RegIdx)
  /-- `Fx33` LD B,Vx (R164) -/
  | ldB (x : RegIdx)
  /-- `Fx55` LD [I],Vx (R165) -/
  | storeRegs (x : RegIdx)
  /-- `Fx65` LD Vx,[I] (R166) -/
  | loadRegs (x : RegIdx)
  /-- `FhNN`, the tone or pitch setter of a further member `NN` of `TONE_NOP_NN` (R65, R67); the table has no row for it, as
  the default set has no further member (log 6) -/
  | toneOther (nn : Byte)
  deriving DecidableEq, Repr

end Sys2Proof
end

