-- ==== Sys2Proof/WellFormed.lean ====
section
/-! DEFINITION. Which instructions exist. Register numbers, immediates, addresses and counts are bounded by their
types (`30_encoding.md` R61); what is left to check is that the tone and pitch setters are instructions only where
`TONE_NOP_NN` has their sub-opcode (R65, R67; `48_group_f.md` R159, R160), and that a further
setter's sub-opcode is no other instruction's. -/

namespace Sys2Proof

/-- `i` is an instruction of the machine whose parameter `TONE_NOP_NN` is `toneNop`. -/
def Instr.wfIn (toneNop : List Byte) (i : Instr) : Bool :=
  match i with
  | .pitch => toneNop.contains 0x17
  | .tone => toneNop.contains 0x18
  | .toneOther nn => toneNop.contains nn && nn != 0x17 && nn != 0x18 && !Machine.fixedGroupF.contains nn
  | .nop => true
  | .cls => true
  | .ret => true
  | .jp _ => true
  | .call _ => true
  | .seImm _ _ => true
  | .sneImm _ _ => true
  | .seReg _ _ => true
  | .ldImm _ _ => true
  | .addImm _ _ => true
  | .ldReg _ _ => true
  | .orReg _ _ => true
  | .andReg _ _ => true
  | .xorReg _ _ => true
  | .addReg _ _ => true
  | .subReg _ _ => true
  | .shr _ => true
  | .subnReg _ _ => true
  | .shl _ => true
  | .sneReg _ _ => true
  | .ldI _ => true
  | .jpV0 _ => true
  | .rnd _ _ => true
  | .drw _ _ _ => true
  | .skp _ => true
  | .sknp _ => true
  | .stop => true
  | .ldVxDT _ => true
  | .ldVxK _ => true
  | .ldDTVx _ => true
  | .addI _ => true
  | .ldF _ => true
  | .ldB _ => true
  | .storeRegs _ => true
  | .loadRegs _ => true

/-- `i` is an instruction of the machine with the parameters `c`. -/
def Instr.wf (c : Config) (i : Instr) : Bool := i.wfIn c.toneNopNN

end Sys2Proof
end

