-- ==== Sys2Proof/Decode.lean ====
section
/-! DEFINITION. The field extraction of `30_encoding.md` R61, the dispatch of R65 as a total function of the word and
of `TONE_NOP_NN`, the decoder over bytes (big-endian, `20_memory.md` R42), and the encoder of the patterns of R64
with ignored fields zero (R70). -/

namespace Sys2Proof

/-- The unsigned value of the `n` bits of `w` from bit `lo` up, `w[lo+n-1:lo]` (R7). -/
def bitsAt (w : Word) (lo n : Nat) : Nat := w.toNat / 2 ^ lo % 2 ^ n

/-- Field `G`, bits 15:12: the opcode group (R61). -/
def fieldG (w : Word) : Nat := bitsAt w 12 4

/-- Field `X`, bits 11:8: the first register number (R61). -/
def fieldX (w : Word) : RegIdx := Fin.ofNat 16 (bitsAt w 8 4)

/-- Field `Y`, bits 7:4: the second register number (R61). -/
def fieldY (w : Word) : RegIdx := Fin.ofNat 16 (bitsAt w 4 4)

/-- Field `N`, bits 3:0: the row count, or the sub-opcode of groups 5, 8 and 9 (R61). -/
def fieldN (w : Word) : Fin 16 := Fin.ofNat 16 (bitsAt w 0 4)

/-- Field `NN`, bits 7:0: the immediate, or the sub-opcode of groups 0, 0xE and 0xF (R61). -/
def fieldNN (w : Word) : Byte := BitVec.ofNat 8 (bitsAt w 0 8)

/-- Field `NNN`, bits 11:0: the address (R61). -/
def fieldNNN (w : Word) : BitVec 12 := BitVec.ofNat 12 (bitsAt w 0 12)

/-- Group 0: the sub-opcode is `NN` alone, `X` is ignored (R65, R68). -/
def dispatch0 (w : Word) : Option Instr :=
  if fieldNN w = 0x00 then some .nop
  else if fieldNN w = 0xE0 then some .cls
  else if fieldNN w = 0xEE then some .ret
  else none

/-- Group 8: the sub-opcode is `N`; the shifts ignore `Y` (R65, R68). -/
def dispatch8 (w : Word) : Option Instr :=
  match (fieldN w).val with
  | 0x0 => some (.ldReg (fieldX w) (fieldY w))
  | 0x1 => some (.orReg (fieldX w) (fieldY w))
  | 0x2 => some (.andReg (fieldX w) (fieldY w))
  | 0x3 => some (.xorReg (fieldX w) (fieldY w))
  | 0x4 => some (.addReg (fieldX w) (fieldY w))
  | 0x5 => some (.subReg (fieldX w) (fieldY w))
  | 0x6 => some (.shr (fieldX w))
  | 0x7 => some (.subnReg (fieldX w) (fieldY w))
  | 0xE => some (.shl (fieldX w))
  | _ => none

/-- Group 0xE: the key skips, recognised and unsupported (R65, `47_key.md` R145). -/
def dispatchE (w : Word) : Option Instr :=
  if fieldNN w = 0x9E then some (.skp (fieldX w))
  else if fieldNN w = 0xA1 then some (.sknp (fieldX w))
  else none

/-- The no-op of a member of `TONE_NOP_NN`: 0x17 is PITCH (R159), 0x18 is TONE (R160), every other one a further setter
(log 6). -/
def toneSetter (nn : Byte) : Instr := if nn = 0x17 then .pitch else if nn = 0x18 then .tone else .toneOther nn

/-- Group 0xF: the sub-opcode is `NN`; one that the table does not fix is a no-op exactly when `TONE_NOP_NN` has it
(R65, R67; log 6). -/
def dispatchF (toneNop : List Byte) (w : Word) : Option Instr :=
  if fieldNN w = 0x00 then some .stop
  else if fieldNN w = 0x07 then some (.ldVxDT (fieldX w))
  else if fieldNN w = 0x0A then some (.ldVxK (fieldX w))
  else if fieldNN w = 0x15 then some (.ldDTVx (fieldX w))
  else if fieldNN w = 0x1E then some (.addI (fieldX w))
  else if fieldNN w = 0x29 then some (.ldF (fieldX w))
  else if fieldNN w = 0x33 then some (.ldB (fieldX w))
  else if fieldNN w = 0x55 then some (.storeRegs (fieldX w))
  else if fieldNN w = 0x65 then some (.loadRegs (fieldX w))
  else if toneNop.contains (fieldNN w) then some (toneSetter (fieldNN w))
  else none

/-- `dispatch(w)` of R65: the instruction of the word, or `none`, which is UnknownOpcode. The three unsupported
instructions are instructions here; their meanings raise NotImplemented. -/
def dispatch (toneNop : List Byte) (w : Word) : Option Instr :=
  match fieldG w with
  | 0x0 => dispatch0 w
  | 0x1 => some (.jp (fieldNNN w))
  | 0x2 => some (.call (fieldNNN w))
  | 0x3 => some (.seImm (fieldX w) (fieldNN w))
  | 0x4 => some (.sneImm (fieldX w) (fieldNN w))
  | 0x5 => if fieldN w = 0 then some (.seReg (fieldX w) (fieldY w)) else none
  | 0x6 => some (.ldImm (fieldX w) (fieldNN w))
  | 0x7 => some (.addImm (fieldX w) (fieldNN w))
  | 0x8 => dispatch8 w
  | 0x9 => if fieldN w = 0 then some (.sneReg (fieldX w) (fieldY w)) else none
  | 0xA => some (.ldI (fieldNNN w))
  | 0xB => some (.jpV0 (fieldNNN w))
  | 0xC => some (.rnd (fieldX w) (fieldNN w))
  | 0xD => some (.drw (fieldX w) (fieldY w) (fieldN w))
  | 0xE => dispatchE w
  | 0xF => dispatchF toneNop w
  | _ => none

/-- The decoder of the machine with the parameters `c`: `dispatch` at its `TONE_NOP_NN`. -/
def decode (c : Config) (w : Word) : Option Instr := dispatch c.toneNopNN w

/-- Why a list of bytes is no instruction. -/
inductive DecodeError where
  /-- Fewer than two bytes: every instruction is 2 bytes (R60). -/
  | truncated
  /-- The word matches no pattern of R64 (R65, R67). -/
  | unknownOpcode (w : Word)
  deriving DecidableEq, Repr

/-- The big-endian word of two bytes, `hi ++ lo` (`20_memory.md` R42). -/
def wordOfBytes (hi lo : Byte) : Word := hi ++ lo

/-- The byte of `w` at the lower address, bits 15:8 (R42). -/
def highByte (w : Word) : Byte := BitVec.ofNat 8 (bitsAt w 8 8)

/-- The byte of `w` at the higher address, bits 7:0 (R42). -/
def lowByte (w : Word) : Byte := BitVec.ofNat 8 (bitsAt w 0 8)

/-- Decode the instruction at the head of a list of bytes; total, rejecting by name. -/
def decodeBytes (c : Config) (bs : List Byte) : Except DecodeError (Instr × List Byte) :=
  match bs with
  | hi :: lo :: rest =>
    match decode c (wordOfBytes hi lo) with
    | some i => .ok (i, rest)
    | none => .error (.unknownOpcode (wordOfBytes hi lo))
  | _ => .error .truncated

/-- The word with group `g` and the 12 bits `nnn` below it (R61). -/
def packNNN (g : Nat) (nnn : BitVec 12) : Word := BitVec.ofNat 16 (g * 0x1000 + nnn.toNat)

/-- The word with group `g`, register `x` and the byte `nn` (R61). -/
def packXNN (g : Nat) (x : RegIdx) (nn : Byte) : Word := BitVec.ofNat 16 (g * 0x1000 + x.val * 0x100 + nn.toNat)

/-- The word with group `g`, registers `x`, `y` and the nibble `n` (R61). -/
def packXYN (g : Nat) (x y n : Fin 16) : Word :=
  BitVec.ofNat 16 (g * 0x1000 + x.val * 0x100 + y.val * 0x10 + n.val)

/-- The word of an instruction, from the patterns of R64, ignored fields zero (R70). -/
def encode (i : Instr) : Word :=
  match i with
  | .nop => packXNN 0x0 0 0x00
  | .cls => packXNN 0x0 0 0xE0
  | .ret => packXNN 0x0 0 0xEE
  | .jp nnn => packNNN 0x1 nnn
  | .call nnn => packNNN 0x2 nnn
  | .seImm x nn => packXNN 0x3 x nn
  | .sneImm x nn => packXNN 0x4 x nn
  | .seReg x y => packXYN 0x5 x y 0
  | .ldImm x nn => packXNN 0x6 x nn
  | .addImm x nn => packXNN 0x7 x nn
  | .ldReg x y => packXYN 0x8 x y 0x0
  | .orReg x y => packXYN 0x8 x y 0x1
  | .andReg x y => packXYN 0x8 x y 0x2
  | .xorReg x y => packXYN 0x8 x y 0x3
  | .addReg x y => packXYN 0x8 x y 0x4
  | .subReg x y => packXYN 0x8 x y 0x5
  | .shr x => packXYN 0x8 x 0 0x6
  | .subnReg x y => packXYN 0x8 x y 0x7
  | .shl x => packXYN 0x8 x 0 0xE
  | .sneReg x y => packXYN 0x9 x y 0
  | .ldI nnn => packNNN 0xA nnn
  | .jpV0 nnn => packNNN 0xB nnn
  | .rnd x nn => packXNN 0xC x nn
  | .drw x y n => packXYN 0xD x y n
  | .skp x => packXNN 0xE x 0x9E
  | .sknp x => packXNN 0xE x 0xA1
  | .stop => packXNN 0xF 0 0x00
  | .ldVxDT x => packXNN 0xF x 0x07
  | .ldVxK x => packXNN 0xF x 0x0A
  | .ldDTVx x => packXNN 0xF x 0x15
  | .pitch => packXNN 0xF 0 0x17
  | .tone => packXNN 0xF 0 0x18
  | .addI x => packXNN 0xF x 0x1E
  | .ldF x => packXNN 0xF x 0x29
  | .ldB x => packXNN 0xF x 0x33
  | .storeRegs x => packXNN 0xF x 0x55
  | .loadRegs x => packXNN 0xF x 0x65
  | .toneOther nn => packXNN 0xF 0 nn

/-- The bits a pattern of R64 fixes, and the value they have there: a row of the opcode table. A word selects the row
when `w AND mask == pattern`. -/
structure OpcodeRow where
  mask : Word
  pattern : Word
  deriving DecidableEq, Repr

/-- The row of `spec/opcode_table.json` that an instruction belongs to; a further tone setter has the row of TONE with its
own low byte, which is a parameter there. -/
def opcodeRow (i : Instr) : OpcodeRow :=
  match i with
  | .nop => ⟨0xF0FF, 0x0000⟩
  | .cls => ⟨0xF0FF, 0x00E0⟩
  | .ret => ⟨0xF0FF, 0x00EE⟩
  | .jp _ => ⟨0xF000, 0x1000⟩
  | .call _ => ⟨0xF000, 0x2000⟩
  | .seImm _ _ => ⟨0xF000, 0x3000⟩
  | .sneImm _ _ => ⟨0xF000, 0x4000⟩
  | .seReg _ _ => ⟨0xF00F, 0x5000⟩
  | .ldImm _ _ => ⟨0xF000, 0x6000⟩
  | .addImm _ _ => ⟨0xF000, 0x7000⟩
  | .ldReg _ _ => ⟨0xF00F, 0x8000⟩
  | .orReg _ _ => ⟨0xF00F, 0x8001⟩
  | .andReg _ _ => ⟨0xF00F, 0x8002⟩
  | .xorReg _ _ => ⟨0xF00F, 0x8003⟩
  | .addReg _ _ => ⟨0xF00F, 0x8004⟩
  | .subReg _ _ => ⟨0xF00F, 0x8005⟩
  | .shr _ => ⟨0xF00F, 0x8006⟩
  | .subnReg _ _ => ⟨0xF00F, 0x8007⟩
  | .shl _ => ⟨0xF00F, 0x800E⟩
  | .sneReg _ _ => ⟨0xF00F, 0x9000⟩
  | .ldI _ => ⟨0xF000, 0xA000⟩
  | .jpV0 _ => ⟨0xF000, 0xB000⟩
  | .rnd _ _ => ⟨0xF000, 0xC000⟩
  | .drw _ _ _ => ⟨0xF000, 0xD000⟩
  | .skp _ => ⟨0xF0FF, 0xE09E⟩
  | .sknp _ => ⟨0xF0FF, 0xE0A1⟩
  | .stop => ⟨0xF0FF, 0xF000⟩
  | .ldVxDT _ => ⟨0xF0FF, 0xF007⟩
  | .ldVxK _ => ⟨0xF0FF, 0xF00A⟩
  | .ldDTVx _ => ⟨0xF0FF, 0xF015⟩
  | .pitch => ⟨0xF0FF, 0xF017⟩
  | .tone => ⟨0xF0FF, 0xF018⟩
  | .addI _ => ⟨0xF0FF, 0xF01E⟩
  | .ldF _ => ⟨0xF0FF, 0xF029⟩
  | .ldB _ => ⟨0xF0FF, 0xF033⟩
  | .storeRegs _ => ⟨0xF0FF, 0xF055⟩
  | .loadRegs _ => ⟨0xF0FF, 0xF065⟩
  | .toneOther nn => ⟨0xF0FF, BitVec.ofNat 16 (0xF000 + nn.toNat)⟩

/-- The bits of a word that its instruction does not ignore (R68): the pattern's `h` digits are the ignored ones. -/
def usedBits (i : Instr) : Word :=
  match i with
  | .nop | .cls | .ret | .stop | .pitch | .tone | .toneOther _ => 0xF0FF
  | .shr _ | .shl _ => 0xFF0F
  | .jp _ | .call _ | .ldI _ | .jpV0 _ => 0xFFFF
  | .seImm _ _ | .sneImm _ _ | .ldImm _ _ | .addImm _ _ | .rnd _ _ => 0xFFFF
  | .seReg _ _ | .sneReg _ _ | .ldReg _ _ | .orReg _ _ | .andReg _ _ | .xorReg _ _ => 0xFFFF
  | .addReg _ _ | .subReg _ _ | .subnReg _ _ | .drw _ _ _ => 0xFFFF
  | .skp _ | .sknp _ | .ldVxDT _ | .ldVxK _ | .ldDTVx _ => 0xFFFF
  | .addI _ | .ldF _ | .ldB _ | .storeRegs _ | .loadRegs _ => 0xFFFF

/-- The instruction the decoder at the default parameters reads from an opcode-table row's word: the word's two bytes are
laid out high byte first (R42) and given to the decoder. -/
def decodeTableWord (nbits w : Nat) : Option Instr :=
  let v : Word := BitVec.ofNat 16 (w % 2 ^ nbits)
  match decodeBytes Machine.defaultConfig [highByte v, lowByte v] with
  | .ok (i, _) => some i
  | .error _ => none

end Sys2Proof
end

