-- ==== Sys2Proof/Machine/State.lean ====
section
/-! DEFINITION. The state of the machine, the record of `10_state.md` R10 as plain data, with the model's own fields
that carry an event's inputs, locals and output; the events of the host (`60_exceptions.md` part 3); the reset state
(`10_state.md` R29); the ways a step can stop. -/

namespace Sys2Proof.Machine

/-- Memory as a list of listed bytes, addresses strictly rising, no entry equal to `resetByte` of its address; an
unlisted address reads as `resetByte` (R45), which depends on the parameters. `Memory.wf` in `Machine/Ops.lean` is that form. -/
abbrev Memory := List Host.Cell

/-- The five causes that latch (`10_state.md` R24, `60_exceptions.md` R180). -/
inductive Cause where
  | unknownOpcode
  | notImplemented
  | outOfRange
  | stackOverflow
  | stackUnderflow
  deriving DecidableEq, Repr

/-- The latched fault record `(cause, address, word, badaddr)` (R24): `word` is absent when the fetch itself faulted,
`badaddr` is present only for OutOfRange and is a natural number, never reduced (R41, R183). -/
structure FaultRecord where
  cause : Cause
  address : Word
  word : Option Word
  badaddr : Option Nat
  deriving DecidableEq, Repr

/-- The events by which the host drives the machine (`60_exceptions.md` R195, R197, R199, R200, R201). -/
inductive Event where
  /-- `Advance(elapsed, rnd)` -/
  | advance (elapsed : Rat) (rnd : Byte)
  /-- `SetKeyState(key, pressed)` -/
  | setKeyState (key : Int) (pressed : Bool)
  /-- `ReadFrame` -/
  | readFrame
  /-- `ClearDirty` -/
  | clearDirty
  /-- `Construct(program)` -/
  | construct (program : List Byte)
  deriving DecidableEq, Repr

/-- What an event answers the host (R185, R186, R191, R195, R197, R199; log 9). -/
inductive Reply where
  /-- done -/
  | ok
  /-- `Advance`: the latched fault record -/
  | fault (r : FaultRecord)
  /-- `SetKeyState`: the key is not 0 to 15 -/
  | invalidKey
  /-- `Advance` with a negative `elapsed`, which is outside the interface -/
  | refused
  /-- `ReadFrame`: the 256 bytes of the video region and `dirty` -/
  | frame (bytes : List Byte) (dirty : Bool)
  deriving DecidableEq, Repr

/-- The state. The fields from `x` to `fault` are R10's; the others are the model's own (log 7 to 10, 26). -/
structure State where
  /-- MODEL'S OWN: the parameters of the machine (`00_scope.md` R6). No event changes them (log 26). -/
  cfg : Config
  /-- General registers V0 … VF (R11); `x[15]` is the flag register (R12). -/
  x : Vector Byte 16
  /-- Index register (R15). -/
  I : Word
  /-- Program counter (R13). -/
  pc : Word
  /-- Stack pointer, a byte offset into the call stack (R16). -/
  sp : Word
  /-- Call stack of return addresses, outside `mem` (R17); its length is `STACK_DEPTH`, which `StackInv` in `Safety.lean`
  says and every event keeps. -/
  stack : List Word
  /-- The 4096 bytes of memory (R25, R40). -/
  mem : Memory
  /-- The countdown timer (R18). -/
  dt : Byte
  /-- Timer accumulator, an exact number of seconds (R19). -/
  acc : Rat
  /-- Key states, true = pressed (R20). -/
  keys : Vector Bool 16
  /-- false = Running, true = WaitingForKey (R21). -/
  waiting : Bool
  /-- Destination register of the key wait (R22). -/
  keydest : RegIdx
  /-- Framebuffer dirty flag (R23). -/
  dirty : Bool
  /-- Latched fault (R24). -/
  fault : Option FaultRecord
  /-- MODEL'S OWN: the local `a` of `Advance` (R195), the address of the instruction in progress (log 10). -/
  curAddr : Word
  /-- MODEL'S OWN: the local `w` of `Advance` (R195), the word in progress (log 10). -/
  curWord : Word
  /-- MODEL'S OWN: the input `rnd` of the `Advance` in progress (R196), a free value (log 7). -/
  rnd : Byte
  /-- MODEL'S OWN: the events the host issues next, oldest first (R203; log 8). -/
  inputs : List Event
  /-- MODEL'S OWN: how many free draws have been taken (log 7, log 8). -/
  draws : Nat
  /-- MODEL'S OWN: the answer of the last event (log 9). -/
  reply : Reply
  deriving DecidableEq, Repr

/-- The machine with the parameters `c` right after `Construct` of an empty program (R29, R210): every component at its
reset value, memory with nothing listed. The model's own fields are zero or empty (log 7 to 10). -/
def State.resetWith (c : Config) : State where
  cfg := c
  x := Vector.replicate 16 0
  I := 0
  pc := BitVec.ofNat 16 c.programBase
  sp := 0
  stack := List.replicate c.stackDepth 0
  mem := []
  dt := 0
  acc := 0
  keys := Vector.replicate 16 false
  waiting := false
  keydest := 0
  dirty := true
  fault := none
  curAddr := 0
  curWord := 0
  rnd := 0
  inputs := []
  draws := 0
  reply := .ok

/-- The machine after reset at the spec's default parameters (log 1 to 6). -/
def State.reset : State := State.resetWith defaultConfig

/-- The ways the machine stops for good. The faults of the spec's `Advance` are not among them: they latch in
`State.fault` and the machine goes on answering events (R187). -/
inductive Fault where
  /-- Raised by the event `Construct` with a program longer than `PROGRAM_MAX`: it reports OutOfRange "and no machine
  exists afterwards" (`70_reset_and_hazards.md` R211; log 16). Safe: nothing follows it. -/
  | constructOutOfRange
  deriving DecidableEq, Repr

/-- The ways a step has no meaning. -/
inductive Refusal where
  /-- Raised by an arm of `exec` whose instruction has no meaning in the model; no arm is left that does. Safe. -/
  | notModelled (mnemonic : String)
  deriving DecidableEq, Repr

end Sys2Proof.Machine
end

