-- ==== Sys2Proof/Machine/Ops.lean ====
section
/-! DEFINITION. The shared operations over memory, the stack and the program counter, the bounds check
(`00_scope.md` R8, `20_memory.md` R41, R56), and taking a fault (`60_exceptions.md` R186). There is no return from a
fault: "There is no return-from-trap instruction, no handler and no nesting" (R189), and only `Construct` clears it. -/

namespace Sys2Proof.Machine

/-- The result of a step of this machine. -/
abbrev Result := Host.Outcome State Fault Refusal

/-- The canonical form of memory: addresses strictly rising and inside the 4096 bytes (R40), no entry equal to what
its address reads as when unlisted. -/
abbrev Memory.wf (m : Memory) (c : Config) : Prop :=
  m.Pairwise (fun d e => d.1 < e.1) ∧ ∀ d ∈ m, d.1 < memSize ∧ d.2 ≠ resetByte c d.1

/-- The byte at an address; an access is bounds-checked before it comes here (log 18). -/
def Memory.get (m : Memory) (c : Config) (a : Nat) : Byte :=
  match m with
  | [] => resetByte c a
  | (k, v) :: rest => if a = k then v else Memory.get rest c a

/-- List the byte `v` at `a` in front of `m`, unless `a` reads as `v` unlisted. -/
def Memory.put (m : Memory) (c : Config) (a : Nat) (v : Byte) : Memory :=
  if v = resetByte c a then m else (a, v) :: m

/-- Write one byte, keeping the canonical form. -/
def Memory.set (m : Memory) (c : Config) (a : Nat) (v : Byte) : Memory :=
  match m with
  | [] => Memory.put [] c a v
  | (k, w) :: rest =>
    if a < k then Memory.put ((k, w) :: rest) c a v
    else if a = k then Memory.put rest c a v
    else (k, w) :: Memory.set rest c a v

/-- Write bytes at rising addresses from `a` (R56: "in ascending address order"). -/
def Memory.writeBytes (m : Memory) (c : Config) (a : Nat) (bs : List Byte) : Memory :=
  match bs with
  | [] => m
  | b :: rest => Memory.writeBytes (m.set c a b) c (a + 1) rest

/-- The `n` bytes from `a` in address order. -/
def Memory.readBytes (m : Memory) (c : Config) (a n : Nat) : List Byte := (List.range n).map fun k => m.get c (a + k)

/-- The byte of memory at an address. -/
def State.byte (s : State) (a : Nat) : Byte := s.mem.get s.cfg a

/-- Memory with bytes stored at rising addresses from `a`. -/
def State.stored (s : State) (a : Nat) (bs : List Byte) : Memory := s.mem.writeBytes s.cfg a bs

/-- General register `r` (R8: `x[i]`). -/
def State.reg (s : State) (r : RegIdx) : Byte := s.x.get r

/-- Write general register `r` (R8: `x[i] <- v`). No register is hardwired (R11). -/
def State.setReg (s : State) (r : RegIdx) (v : Byte) : State := { s with x := s.x.set r v }

/-- The flag register VF (R12). -/
def flagReg : RegIdx := 15

/-- `pc <- target` (R8). -/
def State.setPc (s : State) (target : Word) : State := { s with pc := target }

/-- Skip the next instruction when the condition holds: a further `pc <- (pc + 2) mod 65536` (`42_skip.md` R100). -/
def State.skipIf (s : State) (cond : Bool) : State := if cond then s.setPc (s.pc + 2) else s

/-- `I <- v` (R15). -/
def State.setI (s : State) (v : Word) : State := { s with I := v }

/-- `dt <- v` (R18). -/
def State.setDt (s : State) (v : Byte) : State := { s with dt := v }

/-- Replace memory (R8: `mem[addr] <- v`, for the bytes that differ). -/
def State.setMem (s : State) (m : Memory) : State := { s with mem := m }

/-- `dirty <- v` (R23). -/
def State.setDirty (s : State) (v : Bool) : State := { s with dirty := v }

/-- The entry of the call stack that `sp` points at, `stack[sp / 2]` (R16). -/
def State.stackTop (s : State) : Nat := s.sp.toNat / 2

/-- Entry `j` of the call stack, `stack[j]` (R17). -/
def State.entry (s : State) (j : Nat) : Word := s.stack.getD j 0

/-- Push `pc`: `stack[sp / 2] <- pc; sp <- sp + 2` (`41_jump_call.md` R92). Outside the array, which no run reaches,
nothing is stored (log 17). -/
def State.pushPc (s : State) : State :=
  { s with stack := s.stack.set s.stackTop s.pc, sp := s.sp + 2 }

/-- Pop into `pc`: `sp <- sp - 2; pc <- stack[sp / 2]` (`40_group0_system.md` R82). Outside the array, which no run
reaches, the entry reads 0 (log 17). -/
def State.popPc (s : State) : State :=
  let s' := { s with sp := s.sp - 2 }
  { s' with pc := s'.entry s'.stackTop }

/-- TAKING A FAULT (R186): every component as before the instruction, `pc` back at the address the instruction was
fetched from, and the record latched. -/
def State.raiseFault (s : State) (cause : Cause) (word : Option Word) (badaddr : Option Nat) : State :=
  { s with
    pc := s.curAddr
    fault := some { cause := cause, address := s.curAddr, word := word, badaddr := badaddr } }

/-- A fault raised by the execute part: the fetched word is recorded (R186). -/
def State.raiseExec (s : State) (cause : Cause) (badaddr : Option Nat) : State :=
  s.raiseFault cause (some s.curWord) badaddr

/-- The whole-range check of R41 and R56: the `n` bytes from `a` are inside memory. -/
def inRange (a n : Nat) : Bool := a + n ≤ memSize

/-- Go on with `s'` when the `n` bytes from `a` are inside memory, else raise OutOfRange with the highest address of the
range and nothing written (R41, R56, R183). -/
def State.checked (s : State) (a n : Nat) (s' : State) : State :=
  if inRange a n then s' else s.raiseExec .outOfRange (some (a + n - 1))

end Sys2Proof.Machine
end

