-- ==== Sys2Proof/Machine/Flags.lean ====
section
/-! DEFINITION. Every flag the machine computes, and the arithmetic that goes with it (`44_alu.md` R115 to R125,
`43_load_add_imm.md` R112): exact on natural numbers, narrowed at the end. The one flag is VF (R12). -/

namespace Sys2Proof.Machine

/-- A flag as the byte VF receives: 0 or 1 (R12). -/
def flagByte (b : Bool) : Byte := if b then 1 else 0

/-- Carry out of `a + b` (R120): the exact sum is above 255. -/
def carryOut (a b : Byte) : Bool := a.toNat + b.toNat > 255

/-- No borrow in `a - b` (R121, R123): `a >= b`. -/
def noBorrow (a b : Byte) : Bool := a.toNat ≥ b.toNat

/-- The bit a right shift by one drops, `a[0]` (R122). -/
def lowBit (a : Byte) : Bool := a.getLsbD 0

/-- The bit a left shift by one drops, `a[7]` (R124). -/
def highBit (a : Byte) : Bool := a.getLsbD 7

/-- `(a + b) mod 256` (R112). -/
def add8 (a b : Byte) : Byte := BitVec.ofNat 8 (a.toNat + b.toNat)

/-- `(a - b) mod 256 = (a + 256 - b) mod 256` (R112). -/
def sub8 (a b : Byte) : Byte := BitVec.ofNat 8 (a.toNat + 256 - b.toNat)

/-- `a div 2` (R122). -/
def shr8 (a : Byte) : Byte := BitVec.ofNat 8 (a.toNat / 2)

/-- `(a * 2) mod 256` (R124). -/
def shl8 (a : Byte) : Byte := BitVec.ofNat 8 (a.toNat * 2)

/-- The two writes of a flag-writing group-8 instruction in the order of R115: the flag first, then the result, so
that with `X = 15` the result wins (decision D11; log 12). -/
def State.setFlagThenReg (s : State) (flag : Bool) (r : RegIdx) (v : Byte) : State :=
  (s.setReg flagReg (flagByte flag)).setReg r v

end Sys2Proof.Machine
end

