-- ==== Sys2Proof/Machine/Alu.lean ====
section
/-! DEFINITION. Group 8, register to register (`44_alu.md`): operands are the registers before the instruction, the
flag is written first, then the result (R115). -/

namespace Sys2Proof.Machine

/-- LD Vx,Vy (R116). -/
def execLdReg (x y : RegIdx) (s : State) : Result := .next (s.setReg x (s.reg y))

/-- OR Vx,Vy (R117): VF is not touched. -/
def execOrReg (x y : RegIdx) (s : State) : Result := .next (s.setReg x (s.reg x ||| s.reg y))

/-- AND Vx,Vy (R118): VF is not touched. -/
def execAndReg (x y : RegIdx) (s : State) : Result := .next (s.setReg x (s.reg x &&& s.reg y))

/-- XOR Vx,Vy (R119): VF is not touched. -/
def execXorReg (x y : RegIdx) (s : State) : Result := .next (s.setReg x (s.reg x ^^^ s.reg y))

/-- ADD Vx,Vy (R120): VF = carry. -/
def execAddReg (x y : RegIdx) (s : State) : Result :=
  .next (s.setFlagThenReg (carryOut (s.reg x) (s.reg y)) x (add8 (s.reg x) (s.reg y)))

/-- SUB Vx,Vy (R121): VF = no borrow in `x[X] - x[Y]`. -/
def execSubReg (x y : RegIdx) (s : State) : Result :=
  .next (s.setFlagThenReg (noBorrow (s.reg x) (s.reg y)) x (sub8 (s.reg x) (s.reg y)))

/-- SHR Vx (R122): VF = bit 0; `x[Y]` is not read. -/
def execShr (x : RegIdx) (s : State) : Result :=
  .next (s.setFlagThenReg (lowBit (s.reg x)) x (shr8 (s.reg x)))

/-- SUBN Vx,Vy (R123): VF = no borrow in `x[Y] - x[X]`. -/
def execSubnReg (x y : RegIdx) (s : State) : Result :=
  .next (s.setFlagThenReg (noBorrow (s.reg y) (s.reg x)) x (sub8 (s.reg y) (s.reg x)))

/-- SHL Vx (R124): VF = bit 7; `x[Y]` is not read. -/
def execShl (x : RegIdx) (s : State) : Result :=
  .next (s.setFlagThenReg (highBit (s.reg x)) x (shl8 (s.reg x)))

end Sys2Proof.Machine
end

