-- ==== Sys2Proof/Machine/Operands.lean ====
section
/-! DEFINITION. Operand forms (`30_encoding.md` R62, `48_group_f.md` R167): zero-extended immediates, and the one
addressing mode, base register `I` plus an offset as a natural number. -/

namespace Sys2Proof.Machine

/-- `zext_16(NNN)` (R62). -/
def zextNNN (nnn : BitVec 12) : Word := BitVec.ofNat 16 nnn.toNat

/-- `zext_16(v)` of a byte (R7). -/
def zextByte (v : Byte) : Word := BitVec.ofNat 16 v.toNat

/-- The effective address `I + k`, a natural number that is not reduced (R167). -/
def State.ea (s : State) (k : Nat) : Nat := s.I.toNat + k

/-- Registers 0 to `x` in order, the bytes `LD [I],Vx` stores (R165). -/
def State.regsUpTo (s : State) (x : RegIdx) : List Byte := s.x.toList.take (x.val + 1)

/-- Load register `k` from `mem[a + k]` for `k` = 0 to `x`, in order (R166). -/
def loadUpTo (m : Memory) (c : Config) (a : Nat) (x : RegIdx) (rs : Vector Byte 16) : Vector Byte 16 :=
  (List.range (x.val + 1)).foldl (fun rs k => rs.setIfInBounds k (m.get c (a + k))) rs

/-- The three decimal digits of a byte, hundreds first (R164). -/
def bcdDigits (v : Byte) : List Byte :=
  [BitVec.ofNat 8 (v.toNat / 100), BitVec.ofNat 8 (v.toNat / 10 % 10), BitVec.ofNat 8 (v.toNat % 10)]

/-- The address of the glyph of digit `d`, unmasked (`48_group_f.md` R162; log 14). -/
def glyphAddr (c : Config) (d : Byte) : Word := BitVec.ofNat 16 (c.fontBase + 5 * d.toNat)

end Sys2Proof.Machine
end

