-- ==== Sys2Proof/Machine/Video.lean ====
section
/-! DEFINITION. The video region: the pixel mapping of `20_memory.md` R48, and the sprite drawing of `46_draw.md`
R135 to R140, pixel by pixel, row by row. -/

namespace Sys2Proof.Machine

/-- The size of the video region in bytes (R5). -/
def videoSize : Nat := 256

/-- The address of the byte that holds pixel (`px`, `py`) (R48). -/
def pixelAddr (c : Config) (px py : Nat) : Nat := c.videoBase + 8 * py + px / 8

/-- The bit of that byte that is the pixel: `7 - (px mod 8)` (R48). -/
def pixelBit (px : Nat) : Nat := 7 - px % 8

/-- Pixel (`px`, `py`) is lit (R48). -/
def Memory.pixel (m : Memory) (c : Config) (px py : Nat) : Bool := (m.get c (pixelAddr c px py)).getLsbD (pixelBit px)

/-- Pixel (`px`, `py`) of the screen is lit. -/
def State.pixel (s : State) (px py : Nat) : Bool := s.mem.pixel s.cfg px py

/-- A draw in progress: memory, and the collision flag so far (R138). -/
structure Canvas where
  mem : Memory
  hit : Bool
  deriving DecidableEq, Repr

/-- XOR one lit source bit into pixel (`px`, `py`); a pixel that was lit is a collision (R135). -/
def Canvas.flip (cv : Canvas) (c : Config) (px py : Nat) : Canvas where
  mem := cv.mem.set c (pixelAddr c px py) (cv.mem.get c (pixelAddr c px py) ^^^ BitVec.ofNat 8 (2 ^ pixelBit px))
  hit := cv.hit || cv.mem.pixel c px py

/-- One row: the 8 bits of `src` left to right, each at its own wrapped column (R135, R136). -/
def Canvas.drawRow (cv : Canvas) (c : Config) (vx py : Nat) (src : Byte) : Canvas :=
  (List.range 8).foldl (fun cv k => if src.getLsbD (7 - k) then cv.flip c ((vx + k) % 64) py else cv) cv

/-- The `n` rows of the sprite at address `a`, top to bottom; the source byte of a row is read when the row is reached
(R139), its target row is wrapped (R136). -/
def Canvas.drawRows (cv : Canvas) (c : Config) (vx vy a n : Nat) : Canvas :=
  (List.range n).foldl (fun cv r => cv.drawRow c vx ((vy + r) % 32) (cv.mem.get c (a + r))) cv

/-- The 256 bytes of the video region in address order (`60_exceptions.md` R199). -/
def State.frame (s : State) : List Byte := s.mem.readBytes s.cfg s.cfg.videoBase videoSize

end Sys2Proof.Machine
end

