-- ==== Sys2Proof/Machine/Draw.lean ====
section
/-! DEFINITION. DRW (`46_draw.md`). -/

namespace Sys2Proof.Machine

/-- The draw of R135 with the operands latched: the position from `x[X]`, `x[Y]`, the sprite from `I`. -/
def State.drawn (s : State) (x y : RegIdx) (n : Nat) : Canvas :=
  Canvas.drawRows { mem := s.mem, hit := false } s.cfg (s.reg x).toNat (s.reg y).toNat (s.ea 0) n

/-- DRW Vx,Vy,N (R135): for `N > 0` the sprite's whole range is checked first; `N = 0` reads nothing and checks
nothing (R140). VF ends as the collision flag, also when `X` or `Y` is 15 (R138; log 13). -/
def execDrw (x y : RegIdx) (n : Fin 16) (s : State) : Result :=
  let done := ((s.setMem (s.drawn x y n.val).mem).setReg flagReg (flagByte (s.drawn x y n.val).hit)).setDirty true
  .next (if n.val = 0 then done else s.checked (s.ea 0) n.val done)

end Sys2Proof.Machine
end

