-- ==== Sys2Proof/Machine/Group0.lean ====
section
/-! DEFINITION. Group 0 (`40_group0_system.md`): NOP, CLS, RET. In every meaning `pc` already holds the address of
the following instruction (`00_scope.md` R9). -/

namespace Sys2Proof.Machine

/-- NOP (R80): nothing. -/
def execNop (s : State) : Result := .next s

/-- CLS (R81): the 256 bytes of the video region become 0 and `dirty` is set. -/
def execCls (s : State) : Result :=
  .next ((s.setMem (s.stored s.cfg.videoBase (List.replicate videoSize 0))).setDirty true)

/-- RET (R82): StackUnderflow on an empty stack, else pop `pc`. -/
def execRet (s : State) : Result :=
  .next (if s.sp = 0 then s.raiseExec .stackUnderflow none else s.popPc)

end Sys2Proof.Machine
end

