-- ==== Sys2Proof/Machine/GroupF.lean ====
section
/-! DEFINITION. Group 0xF (`48_group_f.md`), except LD Vx,K. -/

namespace Sys2Proof.Machine

/-- STOP (R155): recognised, unsupported; raises NotImplemented. -/
def execStop (s : State) : Result := .next (s.raiseExec .notImplemented none)

/-- LD Vx,DT (R156). -/
def execLdVxDT (x : RegIdx) (s : State) : Result := .next (s.setReg x s.dt)

/-- LD DT,Vx (R157): `acc` is not reset. -/
def execLdDTVx (x : RegIdx) (s : State) : Result := .next (s.setDt (s.reg x))

/-- PITCH Vx (R159): accepted as a no-op. -/
def execPitch (s : State) : Result := .next s

/-- A further member of `TONE_NOP_NN` (R65, R67; log 6): accepted as a no-op. -/
def execToneOther (_nn : Byte) (s : State) : Result := .next s

/-- TONE Vx (R160): accepted as a no-op. -/
def execTone (s : State) : Result := .next s

/-- ADD I,Vx (R161): modulo 65536, no flag. -/
def execAddI (x : RegIdx) (s : State) : Result := .next (s.setI (s.I + zextByte (s.reg x)))

/-- LD F,Vx (R162). -/
def execLdF (x : RegIdx) (s : State) : Result := .next (s.setI (glyphAddr s.cfg (s.reg x)))

/-- LD B,Vx (R164): three digits to `mem[I .. I+2]`. -/
def execLdB (x : RegIdx) (s : State) : Result :=
  .next (s.checked (s.ea 0) 3 (s.setMem (s.stored (s.ea 0) (bcdDigits (s.reg x)))))

/-- LD [I],Vx (R165): registers 0 to X to `mem[I .. I+X]`; `I` unchanged. -/
def execStoreRegs (x : RegIdx) (s : State) : Result :=
  .next (s.checked (s.ea 0) (x.val + 1) (s.setMem (s.stored (s.ea 0) (s.regsUpTo x))))

/-- LD Vx,[I] (R166): `mem[I .. I+X]` to registers 0 to X; `I` unchanged. -/
def execLoadRegs (x : RegIdx) (s : State) : Result :=
  .next (s.checked (s.ea 0) (x.val + 1) { s with x := loadUpTo s.mem s.cfg (s.ea 0) x s.x })

end Sys2Proof.Machine
end

