-- ==== Sys2Proof/Machine/IndexRandom.lean ====
section
/-! DEFINITION. Index load and random (`45_index_random.md`). -/

namespace Sys2Proof.Machine

/-- LD I,NNN (R130). -/
def execLdI (nnn : BitVec 12) (s : State) : Result := .next (s.setI (zextNNN nnn))

/-- RND Vx,NN (R131): `NN` masked with the random byte of this `Advance`, a free value (R132; log 7). -/
def execRnd (x : RegIdx) (nn : Byte) (s : State) : Result := .next (s.setReg x (nn &&& s.rnd))

end Sys2Proof.Machine
end

