-- ==== Sys2Proof/Machine/JumpCall.lean ====
section
/-! DEFINITION. Jumps and calls (`41_jump_call.md`): JP NNN, CALL NNN, JP V0,NNN. No target is checked here (R90). -/

namespace Sys2Proof.Machine

/-- JP NNN (R91). -/
def execJp (nnn : BitVec 12) (s : State) : Result := .next (s.setPc (zextNNN nnn))

/-- CALL NNN (R92): StackOverflow when the stack is full, else push the address of the following instruction. -/
def execCall (nnn : BitVec 12) (s : State) : Result :=
  .next (if s.sp.toNat = 2 * s.cfg.stackDepth then s.raiseExec .stackOverflow none
    else s.pushPc.setPc (zextNNN nnn))

/-- JP V0,NNN (R93): the 16-bit sum, not reduced modulo 4096. -/
def execJpV0 (nnn : BitVec 12) (s : State) : Result := .next (s.setPc (zextNNN nnn + zextByte (s.reg 0)))

end Sys2Proof.Machine
end

