-- ==== Sys2Proof/Machine/Key.lean ====
section
/-! DEFINITION. Key instructions (`47_key.md`). The other half of the key wait is the event `SetKeyState`. -/

namespace Sys2Proof.Machine

/-- SKP Vx (R146): recognised, unsupported; raises NotImplemented for every `X`. -/
def execSkp (_x : RegIdx) (s : State) : Result := .next (s.raiseExec .notImplemented none)

/-- SKNP Vx (R147): recognised, unsupported; raises NotImplemented for every `X`. -/
def execSknp (_x : RegIdx) (s : State) : Result := .next (s.raiseExec .notImplemented none)

/-- LD Vx,K (R148): enter WaitingForKey with `X` recorded; `x[X]` is written later, by `SetKeyState`. -/
def execLdVxK (x : RegIdx) (s : State) : Result := .next { s with keydest := x, waiting := true }

end Sys2Proof.Machine
end

