-- ==== Sys2Proof/Machine/LoadAddImm.lean ====
section
/-! DEFINITION. Immediate load and add (`43_load_add_imm.md`). -/

namespace Sys2Proof.Machine

/-- LD Vx,NN (R110). -/
def execLdImm (x : RegIdx) (nn : Byte) (s : State) : Result := .next (s.setReg x nn)

/-- ADD Vx,NN (R111): wrapping, no flag. -/
def execAddImm (x : RegIdx) (nn : Byte) (s : State) : Result := .next (s.setReg x (add8 (s.reg x) nn))

end Sys2Proof.Machine
end

