-- ==== Sys2Proof/Machine/Events.lean ====
section
/-! DEFINITION. The events of `60_exceptions.md` part 3 and `70_reset_and_hazards.md` part 1: `Advance` with its timer
step, fetch and execution, `SetKeyState`, `ReadFrame`, `ClearDirty`, `Construct`. -/

namespace Sys2Proof.Machine

/-- Ticks of 1/60 second in the accumulated time `t`: `floor(60 * t)` (R191). -/
def ticksIn (t : Rat) : Nat := (60 * t).floor.toNat

/-- The timer step of `Advance` in the closed form of R191: `dt <- max(0, dt - n)`, `acc <- t - n/60`. -/
def State.timerStep (s : State) (elapsed : Rat) : State :=
  let t := s.acc + elapsed
  { s with dt := BitVec.ofNat 8 (s.dt.toNat - ticksIn t), acc := t - ticksIn t / 60 }

/-- One turn of the `while` of R191: while the accumulator holds at least 1/60 second, decrement `dt` (not below zero)
and take 1/60 second from the accumulator. -/
def State.tickOnce (s : State) : State :=
  if s.acc ≥ 1 / 60 then
    { s with dt := if s.dt = 0 then 0 else s.dt - 1, acc := s.acc - 1 / 60 }
  else s

/-- `fuel` turns of the `while` of R191. -/
def State.tickLoop (s : State) (fuel : Nat) : State :=
  match fuel with
  | 0 => s
  | k + 1 => State.tickLoop s.tickOnce k

/-- What `Advance` answers: ok, or the latched record (R195). -/
def advanceAnswer (fault : Option FaultRecord) : Reply :=
  match fault with
  | none => .ok
  | some r => .fault r

/-- Put the answer of `Advance` where the host reads it (log 9). -/
def State.report (s : State) : State := { s with reply := advanceAnswer s.fault }

/-- The answer of a `SetKeyState`, `ReadFrame` or `ClearDirty` (log 9). -/
def State.answer (s : State) (r : Reply) : State := { s with reply := r }

/-- End an `Advance`: report, unless the instruction stopped the machine. -/
def afterExec (r : Result) : Result :=
  match r with
  | .next s => .next s.report
  | .fault f => .fault f
  | .refused e => .refused e

/-- The big-endian word at `pc` (`20_memory.md` R42). -/
def State.fetchWord (s : State) : Word := wordOfBytes (s.byte s.pc.toNat) (s.byte (s.pc.toNat + 1))

/-- The state `Advance` starts its instruction part from: the random byte is latched and `a <- pc` (R195, R196). -/
def State.latch (s : State) (rnd : Byte) : State := { s with rnd := rnd, curAddr := s.pc }

/-- The state an instruction executes in: `w` is the word at `pc`, and `pc <- pc + 2` (R193). -/
def State.fetched (s : State) : State := { s with curWord := s.fetchWord, pc := s.pc + 2 }

/-- Dispatch and execute the word just fetched: UnknownOpcode when it has no instruction (R195). -/
def dispatchAndExec (s : State) : Result :=
  match decode s.cfg s.curWord with
  | none => .next (s.raiseExec .unknownOpcode none).report
  | some i => afterExec (exec i s)

/-- The instruction part of `Advance` (R192, R193): fetch bounds, fetch, increment, dispatch, execute. -/
def fetchAndExec (rnd : Byte) (s : State) : Result :=
  let s := s.latch rnd
  if inRange s.pc.toNat 2 then dispatchAndExec s.fetched
  else .next (s.raiseFault .outOfRange none (some (s.pc.toNat + 1))).report

/-- `Advance(elapsed, rnd)` (R195) with the priority of R188; a negative `elapsed` is refused with no state change
(R191; log 15). -/
def advance (elapsed : Rat) (rnd : Byte) (s : State) : Result :=
  if elapsed.num < 0 then .next (s.answer .refused)
  else
    match s.fault with
    | some r => .next (s.answer (.fault r))
    | none =>
      let t := s.timerStep elapsed
      if t.waiting then .next t.report else fetchAndExec rnd t

/-- `SetKeyState` for a valid key: a press edge while waiting delivers the key and ends the wait; the level is
recorded in every case (R197). -/
def State.keyEvent (s : State) (key : RegIdx) (pressed : Bool) : State :=
  let woken :=
    if s.waiting ∧ pressed ∧ s.keys.get key = false then
      { s.setReg s.keydest (BitVec.ofNat 8 key.val) with waiting := false }
    else s
  { woken with keys := s.keys.set key pressed }

/-- `SetKeyState(key, pressed)` (R197): InvalidKey with no state change unless `key` is 0 to 15 (R185). -/
def setKeyState (key : Int) (pressed : Bool) (s : State) : Result :=
  if key < 0 ∨ key > 15 then .next (s.answer .invalidKey)
  else .next ((s.keyEvent (Fin.ofNat 16 key.toNat) pressed).answer .ok)

/-- `ReadFrame` (R199): output only. -/
def readFrame (s : State) : Result := .next (s.answer (.frame s.frame s.dirty))

/-- `ClearDirty` (R200). -/
def clearDirty (s : State) : Result := .next ((s.setDirty false).answer .ok)

/-- The machine that `Construct(program)` makes (R210): the reset state with the program copied to `PROGRAM_BASE`. -/
def State.constructed (c : Config) (program : List Byte) : State :=
  { State.resetWith c with mem := (State.resetWith c).stored c.programBase program }

/-- `Construct(program)` (R210, R211): a new machine with the same parameters, of which only the host's pending events
and the model's draw counter are kept; an over-long program leaves no machine (log 16, 26). -/
def construct (program : List Byte) (s : State) : Result :=
  if program.length ≤ programMax s.cfg then
    .next { State.constructed s.cfg program with inputs := s.inputs, draws := s.draws }
  else .fault .constructOutOfRange

/-- The time supplied to the `n`-th `Advance` beyond the listed events: a free non-negative rational (log 8). -/
def freeElapsed (n : Nat) : Rat := (Config.freeElapsedNum n : Rat) / ((Config.freeElapsedDen n : Rat) + 1)

/-- The event that happens next: the oldest listed one; when none is listed, an `Advance` whose inputs are free values
(log 7, log 8). -/
def State.nextEvent (s : State) : Event :=
  match s.inputs with
  | e :: _ => e
  | [] => .advance (freeElapsed s.draws) (Config.freeRnd s.draws)

/-- The state with that event taken from the list, or with one more draw made. -/
def State.eventTaken (s : State) : State :=
  match s.inputs with
  | _ :: rest => { s with inputs := rest }
  | [] => { s with draws := s.draws + 1 }

/-- One event (R203: events are atomic and totally ordered). -/
def runEvent (e : Event) (s : State) : Result :=
  match e with
  | .advance elapsed rnd => advance elapsed rnd s
  | .setKeyState key pressed => setKeyState key pressed s
  | .readFrame => readFrame s
  | .clearDirty => clearDirty s
  | .construct program => construct program s

/-- Store a word's two bytes at `a`, high byte first, as the fetch reads them (R42). -/
def Memory.storeWord (m : Memory) (c : Config) (a : Nat) (w : Word) : Memory := m.writeBytes c a [highByte w, lowByte w]

/-- The word `w` where the next `Advance` fetches, and that `Advance` next: no fault, not waiting, `pc` where a fetch is
possible, and `Advance(0, 0)` the host's next event (log 11). -/
def State.placeWord (s : State) (w : Word) : State :=
  let at_ := if inRange s.pc.toNat 2 then s.pc else BitVec.ofNat 16 s.cfg.programBase
  { s with
    pc := at_
    mem := s.mem.storeWord s.cfg at_.toNat w
    waiting := false
    fault := none
    inputs := .advance 0 0 :: s.inputs }

/-- The spec's own numbers of the causes (R180, decision D20); InvalidKey, which never latches, is 3. -/
def Cause.code (c : Cause) : Nat :=
  match c with
  | .unknownOpcode => 1
  | .notImplemented => 2
  | .outOfRange => 4
  | .stackOverflow => 5
  | .stackUnderflow => 6

end Sys2Proof.Machine
end

