-- ==== Sys2Proof/Machine/Step.lean ====
section
/-! DEFINITION. One step of the machine is one event of the host (`60_exceptions.md` R203). -/

namespace Sys2Proof.Machine

/-- Take the next event and run it. -/
def step (s : State) : Host.Outcome State Fault Refusal := runEvent s.nextEvent s.eventTaken

/-- `s` with an instruction of `nbits` bits and value `w` placed so that the very next step fetches and runs it
(log 11). -/
def State.withFetchWord (s : State) (nbits w : Nat) : State := s.placeWord (BitVec.ofNat 16 (w % 2 ^ nbits))

end Sys2Proof.Machine
end

