-- ==== Sys2Proof/Safety.lean ====
section
/-! DEFINITION. The terms the claims use: the invariant of `10_state.md` R30 with the bounds of R14 and the form of
memory and of the parameters, and the classes of instructions the prose speaks of. -/

namespace Sys2Proof.Machine

/-- The call stack has `STACK_DEPTH` entries (R17), and `sp` is even and at most `2 * STACK_DEPTH` (R16, R30). -/
def StackInv (s : State) : Prop :=
  s.stack.length = s.cfg.stackDepth ∧ s.sp.toNat % 2 = 0 ∧ s.sp.toNat ≤ 2 * s.cfg.stackDepth

/-- `0 <= acc < 1/60` (R19, R30). -/
def AccInv (s : State) : Prop := 0 ≤ s.acc ∧ s.acc < 1 / 60

/-- Never waiting for a key with a fault latched (R24, R30). -/
def LatchInv (s : State) : Prop := ¬(s.waiting = true ∧ s.fault ≠ none)

/-- `pc` is at most 0x10FE and every return address at most 4096 (R14). -/
def PcInv (s : State) : Prop := s.pc.toNat ≤ 0x10FE ∧ ∀ ret ∈ s.stack, ret.toNat ≤ memSize

/-- What holds after reset and after every event. -/
structure Inv (s : State) : Prop where
  legal : legalConfig s.cfg
  stack : StackInv s
  acc : AccInv s
  latch : LatchInv s
  pc : PcInv s
  mem : s.mem.wf s.cfg

/-- A safe run is one in which no fault is latched: the engine executes (R187). -/
def Unfaulted (s : State) : Prop := s.fault = none

/-- An `Advance` is next and reaches the instruction part: its `elapsed` is legal, no fault is latched, the engine is
Running (R188). -/
structure Executes (s : State) (elapsed : Rat) (rnd : Byte) : Prop where
  next : s.nextEvent = .advance elapsed rnd
  legal : 0 ≤ elapsed
  unfaulted : s.fault = none
  running : s.waiting = false

/-- The state in which the instruction of the next `Advance` executes: the event taken, the timer step done, the word
at `pc` fetched and `pc` advanced by 2 (R191, R193). -/
def State.atExec (s : State) (elapsed : Rat) (rnd : Byte) : State :=
  ((s.eventTaken.timerStep elapsed).latch rnd).fetched

/-- The video region holds the byte at `a` (R44). -/
abbrev inVideo (c : Config) (a : Nat) : Prop := c.videoBase ≤ a ∧ a < c.videoBase + videoSize

/-- The control transfers: the jumps, the call, the return and the four skips (R90). -/
def isControl (i : Instr) : Bool :=
  match i with
  | .jp _ | .call _ | .jpV0 _ | .ret => true
  | .seImm _ _ | .sneImm _ _ | .seReg _ _ | .sneReg _ _ => true
  | .nop | .cls | .stop | .pitch | .tone | .toneOther _ => false
  | .ldImm _ _ | .addImm _ _ | .rnd _ _ | .ldI _ => false
  | .ldReg _ _ | .orReg _ _ | .andReg _ _ | .xorReg _ _ => false
  | .addReg _ _ | .subReg _ _ | .subnReg _ _ | .shr _ | .shl _ => false
  | .drw _ _ _ | .skp _ | .sknp _ => false
  | .ldVxDT _ | .ldVxK _ | .ldDTVx _ | .addI _ => false
  | .ldF _ | .ldB _ | .storeRegs _ | .loadRegs _ => false

/-- `i` sets `dirty` in `s`: CLS, and a DRW that is not stopped by its range check (R23, R140). -/
def SetsDirty (i : Instr) (s : State) : Prop :=
  i = .cls ∨ ∃ x y n, i = .drw x y n ∧ (n.val = 0 ∨ s.I.toNat + n.val ≤ memSize)

/-- `i` writes general register `q` as its result, or as one of the registers a block load fills (R28). -/
def Writes (i : Instr) (q : RegIdx) : Prop :=
  (∃ nn, i = .ldImm q nn ∨ i = .addImm q nn ∨ i = .rnd q nn) ∨
  (∃ y, i = .ldReg q y ∨ i = .orReg q y ∨ i = .andReg q y ∨ i = .xorReg q y) ∨
  (∃ y, i = .addReg q y ∨ i = .subReg q y ∨ i = .subnReg q y) ∨ i = .shr q ∨ i = .shl q ∨
  i = .ldVxDT q ∨ ∃ x, i = .loadRegs x ∧ q ≤ x

/-- `i` completes in `s`, changing at most `pc`: a further 2 is added, modulo 65536, exactly when `cond` holds (R100). -/
def SkipsWhen (i : Instr) (s : State) (cond : Prop) : Prop :=
  ∃ t, exec i s = .next t ∧ (cond → t.pc.toNat = (s.pc.toNat + 2) % 65536) ∧ (¬cond → t.pc = s.pc) ∧
    t = { s with pc := t.pc }

/-- `i` completes in `s`, writing `v` to register `r` and nothing else. -/
def WritesReg (i : Instr) (s : State) (r : RegIdx) (v : Byte) : Prop :=
  ∃ t, exec i s = .next t ∧ t.reg r = v ∧ (∀ q, q ≠ r → t.reg q = s.reg q) ∧ t = { s with x := t.x }

/-- `i` completes in `s`, writing `v` to register `r`, the flag `f` as 1 or 0 to register 15 when that is another
register, and nothing else (R115). -/
def WritesRegAndFlag (i : Instr) (s : State) (r : RegIdx) (v : Byte) (f : Prop) : Prop :=
  ∃ t, exec i s = .next t ∧ t.reg r = v ∧
    (r ≠ 15 → (f → t.reg 15 = 1) ∧ (¬f → t.reg 15 = 0)) ∧
    (∀ q, q ≠ r → q ≠ 15 → t.reg q = s.reg q) ∧ t = { s with x := t.x }

/-- `i` completes in `s` by latching cause `c` with `badaddr` and doing nothing else: `pc` is back at the address the
instruction was fetched from (R186). -/
def Latches (i : Instr) (s : State) (c : Cause) (badaddr : Option Nat) : Prop :=
  exec i s = .next { s with
    pc := s.curAddr
    fault := some { cause := c, address := s.curAddr, word := some s.curWord, badaddr := badaddr } }

/-- The sprite that `DRW` with operands `x`, `y`, `n` draws from `s` has a 1 bit on pixel (`qx`, `qy`), every pixel
wrapped on its own (R136, R137). -/
def SpriteCovers (s : State) (x y : RegIdx) (n qx qy : Nat) : Prop :=
  ∃ r c, r < n ∧ c < 8 ∧ ((s.reg x).toNat + c) % 64 = qx ∧ ((s.reg y).toNat + r) % 32 = qy ∧
    (s.byte (s.I.toNat + r)).getLsbD (7 - c) = true

end Sys2Proof.Machine
end

