-- ==== Sys2Proof/Certificates/Slice0/Obligations.lean ====
section
/-! DEFINITION. The statements about the machine, in the order of `OBLIGATIONS.json`. In a statement about `exec` the
state is the one an instruction executes in: `pc` already holds the address of the following instruction
(`00_scope.md` R9), `curAddr` and `curWord` are the address and the word it was fetched as. The parameters of R6 are
`s.cfg`: a statement holds for every choice of them, or for every legal one (R47) where it says `legalConfig`
(log 26). -/

open Sys2Proof Sys2Proof.Machine

/-! ## Encoding -/

/-- Decoding an encoded instruction gives it back, with every operand at every value, exactly for the instructions the
machine with that `TONE_NOP_NN` has; the same over bytes, high byte first (that a further member of `TONE_NOP_NN` is an
instruction of its own is log 6). -/
def Obligations.DecodeOfEncodeIsTheInstruction : Prop :=
  (∀ (tone : List Byte) (i : Instr), dispatch tone (encode i) = some i ↔ i.wfIn tone = true) ∧
  (∀ (c : Config) (i : Instr) (rest : List Byte), i.wf c = true →
    decodeBytes c (highByte (encode i) :: lowByte (encode i) :: rest) = .ok (i, rest))

/-- A decoded word is the encoding of its instruction but for the fields the instruction ignores, which the encoder
leaves 0 (decision D13; log 21). -/
def Obligations.EncodeOfDecodeIsTheWordUpToIgnoredFields : Prop :=
  ∀ (c : Config) (w : Word) (i : Instr), decode c w = some i → encode i = w &&& usedBits i

/-- A word selects an instruction's row of the opcode table, `w AND mask == match`, exactly when it decodes to an
instruction of that row; so no word selects two rows (the rows of the tone setters are those of `TONE_NOP_NN`; log 6). -/
def Obligations.DecoderSelectsTheOpcodeTableRow : Prop :=
  ∀ (c : Config) (w : Word) (i : Instr), i.wf c = true →
    ((w &&& (opcodeRow i).mask = (opcodeRow i).pattern) ↔ ∃ j, decode c w = some j ∧ opcodeRow j = opcodeRow i)

/-- The words without an instruction are exactly the illegal ones, for every choice of `TONE_NOP_NN` (decisions D12,
D14; log 6, 22). -/
def Obligations.UnknownOpcodeIsExactlyTheIllegalWords : Prop :=
  ∀ (tone : List Byte) (w : Word), dispatch tone w = none ↔
    (fieldG w = 0 ∧ fieldNN w ∉ ([0x00, 0xE0, 0xEE] : List Byte)) ∨
    ((fieldG w = 5 ∨ fieldG w = 9) ∧ fieldN w ≠ 0) ∨
    (fieldG w = 8 ∧ (fieldN w).val ∈ [8, 9, 0xA, 0xB, 0xC, 0xD, 0xF]) ∨
    (fieldG w = 0xE ∧ fieldNN w ∉ ([0x9E, 0xA1] : List Byte)) ∨
    (fieldG w = 0xF ∧
      fieldNN w ∉ ([0x00, 0x07, 0x0A, 0x15, 0x1E, 0x29, 0x33, 0x55, 0x65] : List Byte) ∧ fieldNN w ∉ tone)

/-- Words written out bit by bit from the patterns of R64 decode to the instructions they stand for. -/
def Obligations.WordsWrittenOutDecode : Prop :=
  decode defaultConfig 0b0000_0000_1110_1110 = some .ret ∧
  decode defaultConfig 0b0010_0011_0100_0101 = some (.call 0x345) ∧
  decode defaultConfig 0b0101_0011_0100_0000 = some (.seReg 3 4) ∧
  decode defaultConfig 0b0110_1010_0010_1111 = some (.ldImm 10 0x2F) ∧
  decode defaultConfig 0b1000_0001_0010_0111 = some (.subnReg 1 2) ∧
  decode defaultConfig 0b1100_0001_0000_1111 = some (.rnd 1 0x0F) ∧
  decode defaultConfig 0b1101_0001_0010_0101 = some (.drw 1 2 5) ∧
  decode defaultConfig 0b1110_0001_1001_1110 = some (.skp 1) ∧
  decode defaultConfig 0b1111_0010_0101_0101 = some (.storeRegs 2) ∧
  decode defaultConfig 0b0101_1111_1111_1111 = none

/-! ## Advance -/

/-- `Advance` fetches the big-endian word at `pc`, adds 2 to `pc` and executes the decoded instruction; after one that
is no control transfer and does not fault, `pc` has advanced by exactly 2. -/
def Obligations.StepRunsTheDecodedInstruction : Prop :=
  ∀ (s : State) (e : Rat) (b : Byte) (i : Instr), Executes s e b → s.pc.toNat + 2 ≤ 4096 →
    decode s.cfg (wordOfBytes (s.byte s.pc.toNat) (s.byte (s.pc.toNat + 1))) = some i →
    step s = afterExec (exec i (s.atExec e b)) ∧
    s.atExec e b = { s.eventTaken.timerStep e with
      pc := s.pc + 2
      curAddr := s.pc
      curWord := wordOfBytes (s.byte s.pc.toNat) (s.byte (s.pc.toNat + 1))
      rnd := b } ∧
    (∀ t, step s = .next t → t.fault = none → isControl i = false → t.pc = s.pc + 2)

/-- A word without an instruction latches UnknownOpcode with its address and word; the timer step is kept, everything
else is as before, `pc` included (the spec's decision D17; log 23). -/
def Obligations.UnknownOpcodeIsLatchedPrecisely : Prop :=
  ∀ (s : State) (e : Rat) (b : Byte), Executes s e b → s.pc.toNat + 2 ≤ 4096 → decode s.cfg s.fetchWord = none →
    let rec_ : FaultRecord := ⟨.unknownOpcode, s.pc, some s.fetchWord, none⟩
    step s = .next { s.eventTaken.timerStep e with
      fault := some rec_, reply := .fault rec_, curAddr := s.pc, curWord := s.fetchWord, rnd := b }

/-- A fetch at 4095 or above latches OutOfRange without a word, `badaddr = pc + 1`, and `pc` is unchanged (the spec's
decisions D7, D17). -/
def Obligations.FetchOutsideMemoryLatchesOutOfRange : Prop :=
  ∀ (s : State) (e : Rat) (b : Byte), Executes s e b → 4096 < s.pc.toNat + 2 →
    let rec_ : FaultRecord := ⟨.outOfRange, s.pc, none, some (s.pc.toNat + 1)⟩
    step s = .next { s.eventTaken.timerStep e with fault := some rec_, reply := .fault rec_, curAddr := s.pc, rnd := b }

/-- With a fault latched `Advance` changes nothing and answers the record; no event but `Construct` clears or replaces
the record, or touches time, memory, `pc`, `I` or the stack (the spec's decision D17; log 23). -/
def Obligations.LatchedFaultStopsTheEngine : Prop :=
  (∀ (s : State) (e : Rat) (b : Byte) (r : FaultRecord), 0 ≤ e → s.nextEvent = .advance e b → s.fault = some r →
    step s = .next { s.eventTaken with reply := .fault r }) ∧
  (∀ (s t : State) (r : FaultRecord), s.fault = some r → (∀ p, s.nextEvent ≠ .construct p) → step s = .next t →
    t.fault = some r ∧ t.pc = s.pc ∧ t.mem = s.mem ∧ t.I = s.I ∧ t.sp = s.sp ∧ t.stack = s.stack ∧
    t.dt = s.dt ∧ t.acc = s.acc)

/-- Waiting for a key, `Advance` is exactly its timer step, here in the closed form of R191 over exact rational time (the
spec's decision D21; log 25). -/
def Obligations.WaitingAdvanceIsItsTimerStep : Prop :=
  ∀ (s : State) (e : Rat) (b : Byte), 0 ≤ e → s.nextEvent = .advance e b → s.fault = none → s.waiting = true →
    step s = .next { s.eventTaken with
      dt := BitVec.ofNat 8 (s.dt.toNat - (60 * (s.acc + e)).floor.toNat)
      acc := s.acc + e - ((60 * (s.acc + e)).floor.toNat : Rat) / 60
      reply := .ok }

/-- A negative `elapsed` is refused and no component changes (the spec's decision D21; that the refusal is answered
before a latched fault is the model's choice, log 15). -/
def Obligations.NegativeElapsedIsRefused : Prop :=
  ∀ (s : State) (e : Rat) (b : Byte), e < 0 → s.nextEvent = .advance e b →
    step s = .next { s.eventTaken with reply := .refused }

/-! ## The timer -/

/-- The closed form of the timer step is the `while` loop of R191, run for any number of turns that is enough. -/
def Obligations.TimerStepIsTheWhileLoop : Prop :=
  ∀ (s : State) (e : Rat) (fuel : Nat), (60 * (s.acc + e)).floor.toNat ≤ fuel →
    State.tickLoop { s with acc := s.acc + e } fuel = s.timerStep e

/-- Time may be supplied in any chunks: two timer steps are one with the sum; `dt` falls by the whole ticks and stops
at 0. -/
def Obligations.TimerStepsAddUp : Prop :=
  ∀ (s : State) (d e : Rat), 0 ≤ s.acc → 0 ≤ d → 0 ≤ e →
    (s.timerStep d).timerStep e = s.timerStep (d + e) ∧
    (s.timerStep d).dt.toNat = s.dt.toNat - (60 * (s.acc + d)).floor.toNat

/-! ## The other events -/

/-- `SetKeyState`: a press edge while waiting delivers the key and ends the wait; the level is recorded in every valid
case; an identifier outside 0 to 15 changes nothing; the wait does not end inside `Advance`. -/
def Obligations.SetKeyStateRecordsAndWakes : Prop :=
  (∀ (s t : State) (e : Rat) (b : Byte), s.nextEvent = .advance e b → s.waiting = true → step s = .next t →
    t.waiting = true) ∧
  ∀ (s : State) (key : Int) (pressed : Bool), s.nextEvent = .setKeyState key pressed →
    (∀ k : Fin 16, key = (k.val : Int) →
      (s.waiting = true ∧ pressed = true ∧ s.keys.get k = false →
        step s = .next { s.eventTaken with
          x := s.x.set s.keydest (BitVec.ofNat 8 k.val)
          waiting := false, keys := s.keys.set k pressed, reply := .ok }) ∧
      (¬(s.waiting = true ∧ pressed = true ∧ s.keys.get k = false) →
        step s = .next { s.eventTaken with keys := s.keys.set k pressed, reply := .ok })) ∧
    (key < 0 ∨ key > 15 → step s = .next { s.eventTaken with reply := .invalidKey })

/-- A key wait ends only in `SetKeyState` on a press of a key not recorded as pressed, or by a new `Construct`; never
in an `Advance`. -/
def Obligations.KeyWaitEndsOnlyOnAPressEdge : Prop :=
  ∀ (s t : State), s.waiting = true → step s = .next t → t.waiting = false →
    (∃ k : Fin 16, s.nextEvent = .setKeyState (k.val : Int) true ∧ s.keys.get k = false ∧
      t.reg s.keydest = BitVec.ofNat 8 k.val) ∨
    (∃ p, s.nextEvent = .construct p)

/-- `ReadFrame` answers the 256 bytes of the video region in address order and `dirty`, and changes no component. -/
def Obligations.ReadFrameReportsTheVideoRegion : Prop :=
  ∀ s : State, s.nextEvent = .readFrame →
    ∃ bytes : List Byte, step s = .next { s.eventTaken with reply := .frame bytes s.dirty } ∧
      bytes.length = 256 ∧ ∀ k, k < 256 → bytes.getD k 0 = s.byte (s.cfg.videoBase + k)

/-- `ClearDirty` clears `dirty` and nothing else, and no other event makes `dirty` false (the spec's decision D29). -/
def Obligations.DirtyIsClearedOnlyByClearDirty : Prop :=
  (∀ s : State, s.nextEvent = .clearDirty → step s = .next { s.eventTaken with dirty := false, reply := .ok }) ∧
  (∀ s t : State, s.dirty = true → step s = .next t → t.dirty = false → s.nextEvent = .clearDirty)

/-- `Construct` of a program of at most PROGRAM_MAX bytes makes the reset state with the program at PROGRAM_BASE, with
the parameters and whatever the state was; with the default parameters that is up to 3328 bytes at 0x200 (`acc`, `keys`,
`keydest`, `stack` and `fault` are the spec's decision D22; log 19, 26). -/
def Obligations.ConstructBuildsTheResetState : Prop :=
  ∀ (s : State) (program : List Byte), legalConfig s.cfg → s.nextEvent = .construct program →
    program.length ≤ programMax s.cfg →
    ∃ t, step s = .next t ∧ t.cfg = s.cfg ∧ (∀ q, t.reg q = 0) ∧ t.I = 0 ∧ t.pc.toNat = s.cfg.programBase ∧ t.sp = 0 ∧
      (t.stack.length = s.cfg.stackDepth ∧ ∀ j, t.entry j = 0) ∧
      (∀ a, a < 4096 → t.byte a =
        if s.cfg.programBase ≤ a ∧ a < s.cfg.programBase + program.length then program.getD (a - s.cfg.programBase) 0
        else if s.cfg.fontBase ≤ a ∧ a < s.cfg.fontBase + 80 then s.cfg.fontData.getD (a - s.cfg.fontBase) 0 else 0) ∧
      t.dt = 0 ∧ t.acc = 0 ∧ (∀ k, t.keys.get k = false) ∧ t.waiting = false ∧ t.keydest = 0 ∧
      t.dirty = true ∧ t.fault = none ∧ t.reply = .ok ∧ t.mem.wf t.cfg

/-- `Construct` of a longer program leaves no machine (the spec's decision D23; that the model's step stops there is
log 16). -/
def Obligations.OverlongConstructLeavesNoMachine : Prop :=
  ∀ (s : State) (program : List Byte), s.nextEvent = .construct program → programMax s.cfg < program.length →
    step s = .fault .constructOutOfRange

/-! ## The whole machine -/

/-- The spec's default parameters are a legal layout (log 1 to 6). -/
def Obligations.ParametersAreLegal : Prop := legalConfig defaultConfig ∧ programMax defaultConfig = 3328

/-- The invariant holds after reset, at the default parameters and at every legal choice of them, and the video region
is zero there (the reset values the source omits are log 19). -/
def Obligations.ResetHasTheInvariant : Prop :=
  Inv State.reset ∧ State.reset = State.resetWith defaultConfig ∧
  ∀ c, legalConfig c → Inv (State.resetWith c) ∧ ∀ a, inVideo c a → (State.resetWith c).byte a = 0

/-- The invariant holds after every event: the parameters legal, the stack of its length, `sp` even and bounded,
`0 <= acc < 1/60`, never waiting with a fault latched, `pc` and the return addresses bounded, memory in its canonical
form. -/
def Obligations.StepKeepsTheInvariant : Prop := ∀ s t : State, Inv s → step s = .next t → Inv t

/-- Every event is answered with a next state, exactly one event is taken, and the parameters stay; the one exception is
an over-long `Construct` (log 16, 26). -/
def Obligations.EveryEventIsAnswered : Prop :=
  ∀ s : State,
    (∃ t, step s = .next t ∧ t.inputs = s.eventTaken.inputs ∧ t.draws = s.eventTaken.draws ∧ t.cfg = s.cfg) ∨
    (∃ p : List Byte, s.nextEvent = .construct p ∧ programMax s.cfg < p.length ∧ step s = .fault .constructOutOfRange)

/-- Every instruction answers a next state, in every state; when it faults, only `pc` and `fault` change, and only the
causes of R188 (6) occur, each from its own instructions (the record is the spec's decision D17). -/
def Obligations.EveryInstructionCompletesOrFaultsPrecisely : Prop :=
  ∀ (i : Instr) (s : State),
    (∃ t, exec i s = .next t ∧ t.fault = s.fault) ∨
    (∃ c bad, Latches i s c bad ∧
      ((c = .notImplemented ∧ bad = none ∧ ((∃ x, i = .skp x ∨ i = .sknp x) ∨ i = .stop)) ∨
       (c = .stackOverflow ∧ bad = none ∧ ∃ nnn, i = .call nnn) ∨
       (c = .stackUnderflow ∧ bad = none ∧ i = .ret) ∨
       (c = .outOfRange ∧ (∃ a, bad = some a ∧ 4096 ≤ a) ∧
         ((∃ x y n, i = .drw x y n) ∨ ∃ x, i = .ldB x ∨ i = .storeRegs x ∨ i = .loadRegs x))))

/-- Who writes what (R28): an instruction that is not listed for a component leaves it unchanged; register 15 is written as
a flag as well as like any other register. -/
def Obligations.OnlyTheListedInstructionsWriteAComponent : Prop :=
  ∀ (i : Instr) (s t : State), exec i s = .next t →
    (t.I ≠ s.I → (∃ nnn, i = .ldI nnn) ∨ ∃ x, i = .addI x ∨ i = .ldF x) ∧
    (t.sp ≠ s.sp ∨ t.stack ≠ s.stack → (∃ nnn, i = .call nnn) ∨ i = .ret) ∧
    (t.mem ≠ s.mem → i = .cls ∨ (∃ x y n, i = .drw x y n) ∨ ∃ x, i = .ldB x ∨ i = .storeRegs x) ∧
    (t.dt ≠ s.dt → ∃ x, i = .ldDTVx x) ∧
    (t.waiting ≠ s.waiting ∨ t.keydest ≠ s.keydest → ∃ x, i = .ldVxK x) ∧
    (t.dirty ≠ s.dirty → i = .cls ∨ ∃ x y n, i = .drw x y n) ∧
    (t.pc ≠ s.pc → isControl i = true ∨ ∃ c bad, Latches i s c bad) ∧
    (∀ q, q ≠ 15 → t.reg q ≠ s.reg q → Writes i q) ∧
    (t.reg 15 ≠ s.reg 15 →
      (∃ x y, i = .addReg x y ∨ i = .subReg x y ∨ i = .subnReg x y) ∨ (∃ x, i = .shr x ∨ i = .shl x) ∨
      (∃ x y n, i = .drw x y n) ∨ Writes i 15) ∧
    t.acc = s.acc ∧ t.keys = s.keys ∧ t.curAddr = s.curAddr ∧ t.curWord = s.curWord ∧ t.rnd = s.rnd ∧
    t.inputs = s.inputs ∧ t.draws = s.draws ∧ t.reply = s.reply ∧ t.cfg = s.cfg

/-- No instruction reads the key levels, the accumulator, `dirty`, or the host's list and answer: with other values
there, it does the same to everything else, and leaves those values but for `dirty`, which becomes true exactly where
the instruction sets it and is else the value given. -/
def Obligations.NoInstructionReadsKeysAccumulatorOrDirty : Prop :=
  ∀ (i : Instr) (s t : State) (keys : Vector Bool 16) (acc : Rat) (dirty : Bool) (inputs : List Event)
    (draws : Nat) (reply : Reply),
    exec i s = .next t →
    ∃ u, exec i { s with keys := keys, acc := acc, dirty := dirty, inputs := inputs, draws := draws, reply := reply } =
        .next u ∧
      u = { t with keys := keys, acc := acc, dirty := u.dirty, inputs := inputs, draws := draws, reply := reply } ∧
      (SetsDirty i s → u.dirty = true) ∧ (¬SetsDirty i s → u.dirty = dirty)

/-- The random byte reaches only `RND`: with another byte every other instruction does the same. -/
def Obligations.RandomByteReachesOnlyRnd : Prop :=
  ∀ (i : Instr) (s t : State) (b : Byte), (∀ x nn, i ≠ .rnd x nn) → exec i s = .next t →
    exec i { s with rnd := b } = .next { t with rnd := b }

/-! ## The instructions -/

/-- NOP and the tone and pitch setters, the words of group 0xF with a sub-opcode in `TONE_NOP_NN`, change nothing; their
`X` is ignored (decisions D13, D14; log 6, 21). -/
def Obligations.NoOperationsChangeNothing : Prop :=
  (∀ (c : Config) (w : Word), fieldG w = 0 → fieldNN w = 0x00 → decode c w = some .nop) ∧
  (∀ (c : Config) (w : Word), legalConfig c → fieldG w = 0xF → fieldNN w ∈ c.toneNopNN →
    decode c w = some (toneSetter (fieldNN w))) ∧
  (∀ nn, toneSetter nn = .pitch ↔ nn = 0x17) ∧ (∀ nn, toneSetter nn = .tone ↔ nn = 0x18) ∧
  ∀ (s : State) (nn : Byte),
    exec .nop s = .next s ∧ exec .pitch s = .next s ∧ exec .tone s = .next s ∧ exec (.toneOther nn) s = .next s

/-- CLS zeroes the 256 bytes of the video region and no other byte, sets `dirty`, and does nothing else; its `X` is ignored
(the spec's decision D13; log 21). -/
def Obligations.ClsZeroesTheVideoRegion : Prop :=
  (∀ (c : Config) (w : Word), fieldG w = 0 → fieldNN w = 0xE0 → decode c w = some .cls) ∧
  ∀ s : State, legalConfig s.cfg → s.mem.wf s.cfg → ∃ t, exec .cls s = .next t ∧
    (∀ a, t.byte a = if s.cfg.videoBase ≤ a ∧ a < s.cfg.videoBase + 256 then 0 else s.byte a) ∧
    t.dirty = true ∧ t = { s with mem := t.mem, dirty := t.dirty }

/-- RET pops the newest return address into `pc`; on an empty stack it latches StackUnderflow; its `X` is ignored (the
spec's decisions D6, D13, D17; log 5, 21, 23). -/
def Obligations.RetPopsPcOrUnderflows : Prop :=
  (∀ (c : Config) (w : Word), fieldG w = 0 → fieldNN w = 0xEE → decode c w = some .ret) ∧
  ∀ s : State,
    (∀ j, j < s.cfg.stackDepth → s.sp.toNat = 2 * (j + 1) →
      ∃ t, exec .ret s = .next t ∧ t.sp.toNat = 2 * j ∧ t.pc = s.entry j ∧ t = { s with sp := t.sp, pc := t.pc }) ∧
    (s.sp = 0 → Latches .ret s .stackUnderflow none)

/-- JP NNN sets `pc` to NNN and changes nothing else. -/
def Obligations.JpSetsPc : Prop :=
  (∀ (c : Config) (w : Word), fieldG w = 1 → decode c w = some (.jp (fieldNNN w))) ∧
  ∀ (nnn : BitVec 12) (s : State), ∃ t, exec (.jp nnn) s = .next t ∧ t.pc.toNat = nnn.toNat ∧ t = { s with pc := t.pc }

/-- CALL NNN pushes the address after itself and jumps; memory and the other entries are untouched; on a full stack it
latches StackOverflow (the spec's decisions D6, D17; log 5, 23). -/
def Obligations.CallPushesPcOrOverflows : Prop :=
  (∀ (c : Config) (w : Word), fieldG w = 2 → decode c w = some (.call (fieldNNN w))) ∧
  ∀ (nnn : BitVec 12) (s : State), legalConfig s.cfg → StackInv s →
    (∀ j, j < s.cfg.stackDepth → s.sp.toNat = 2 * j →
      ∃ t, exec (.call nnn) s = .next t ∧ t.sp.toNat = 2 * (j + 1) ∧ t.entry j = s.pc ∧
        (∀ k, k ≠ j → t.entry k = s.entry k) ∧ t.stack.length = s.stack.length ∧ t.pc.toNat = nnn.toNat ∧
        t = { s with sp := t.sp, stack := t.stack, pc := t.pc }) ∧
    (s.sp.toNat = 2 * s.cfg.stackDepth → Latches (.call nnn) s .stackOverflow none)

/-- JP V0,NNN sets `pc` to NNN plus register 0, not reduced modulo 4096 (the spec's decisions D7, D8). -/
def Obligations.JpV0AddsRegisterZero : Prop :=
  (∀ (c : Config) (w : Word), fieldG w = 0xB → decode c w = some (.jpV0 (fieldNNN w))) ∧
  ∀ (nnn : BitVec 12) (s : State), ∃ t, exec (.jpV0 nnn) s = .next t ∧
    t.pc.toNat = nnn.toNat + (s.reg 0).toNat ∧ t = { s with pc := t.pc }

/-- After a CALL with room on the stack, a RET executed in any state with the call stack it left returns to the instruction
after the CALL and restores `sp` (the spec's decision D6; log 5). -/
def Obligations.RetReturnsToTheInstructionAfterTheCall : Prop :=
  ∀ (nnn : BitVec 12) (s t u : State), legalConfig s.cfg → StackInv s → s.sp.toNat < 2 * s.cfg.stackDepth →
    exec (.call nnn) s = .next t → u.sp = t.sp → u.stack = t.stack →
    ∃ v, exec .ret u = .next v ∧ v.pc = s.pc ∧ v.sp = s.sp

/-- SE Vx,NN and SNE Vx,NN skip on equality and on difference, and write no register. -/
def Obligations.ImmediateSkips : Prop :=
  (∀ (c : Config) (w : Word), fieldG w = 3 → decode c w = some (.seImm (fieldX w) (fieldNN w))) ∧
  (∀ (c : Config) (w : Word), fieldG w = 4 → decode c w = some (.sneImm (fieldX w) (fieldNN w))) ∧
  ∀ (x : RegIdx) (nn : Byte) (s : State),
    SkipsWhen (.seImm x nn) s (s.reg x = nn) ∧ SkipsWhen (.sneImm x nn) s (s.reg x ≠ nn)

/-- SE Vx,Vy and SNE Vx,Vy skip on equality and on difference, and write no register; their low nibble must be 0 (the
spec's decision D12; log 22). -/
def Obligations.RegisterSkips : Prop :=
  (∀ (c : Config) (w : Word), fieldG w = 5 → decode c w = if fieldN w = 0 then some (.seReg (fieldX w) (fieldY w)) else none) ∧
  (∀ (c : Config) (w : Word), fieldG w = 9 → decode c w = if fieldN w = 0 then some (.sneReg (fieldX w) (fieldY w)) else none) ∧
  ∀ (x y : RegIdx) (s : State),
    SkipsWhen (.seReg x y) s (s.reg x = s.reg y) ∧ SkipsWhen (.sneReg x y) s (s.reg x ≠ s.reg y)

/-- LD Vx,NN loads the byte; ADD Vx,NN adds it modulo 256 and touches no flag. -/
def Obligations.ImmediateLoadAndAdd : Prop :=
  (∀ (c : Config) (w : Word), fieldG w = 6 → decode c w = some (.ldImm (fieldX w) (fieldNN w))) ∧
  (∀ (c : Config) (w : Word), fieldG w = 7 → decode c w = some (.addImm (fieldX w) (fieldNN w))) ∧
  ∀ (x : RegIdx) (nn : Byte) (s : State),
    WritesReg (.ldImm x nn) s x nn ∧
    WritesReg (.addImm x nn) s x (BitVec.ofNat 8 (((s.reg x).toNat + nn.toNat) % 256))

/-- LD, OR, AND and XOR between registers: the result bit by bit, no flag touched. -/
def Obligations.RegisterCopyAndLogic : Prop :=
  (∀ (c : Config) (w : Word), fieldG w = 8 →
    (fieldN w = 0 → decode c w = some (.ldReg (fieldX w) (fieldY w))) ∧
    (fieldN w = 1 → decode c w = some (.orReg (fieldX w) (fieldY w))) ∧
    (fieldN w = 2 → decode c w = some (.andReg (fieldX w) (fieldY w))) ∧
    (fieldN w = 3 → decode c w = some (.xorReg (fieldX w) (fieldY w)))) ∧
  ∀ (x y : RegIdx) (s : State),
    WritesReg (.ldReg x y) s x (s.reg y) ∧
    (∃ v, WritesReg (.orReg x y) s x v ∧
      ∀ b, v.getLsbD b = ((s.reg x).getLsbD b || (s.reg y).getLsbD b)) ∧
    (∃ v, WritesReg (.andReg x y) s x v ∧
      ∀ b, v.getLsbD b = ((s.reg x).getLsbD b && (s.reg y).getLsbD b)) ∧
    (∃ v, WritesReg (.xorReg x y) s x v ∧
      ∀ b, v.getLsbD b = ((s.reg x).getLsbD b ^^ (s.reg y).getLsbD b))

/-- ADD, SUB and SUBN between registers: result modulo 256, VF the carry or the absence of a borrow, both from the
values before the instruction; with `X = 15` the result wins (the spec's decision D11; log 12). -/
def Obligations.RegisterAddAndSubtract : Prop :=
  (∀ (c : Config) (w : Word), fieldG w = 8 →
    (fieldN w = 4 → decode c w = some (.addReg (fieldX w) (fieldY w))) ∧
    (fieldN w = 5 → decode c w = some (.subReg (fieldX w) (fieldY w))) ∧
    (fieldN w = 7 → decode c w = some (.subnReg (fieldX w) (fieldY w)))) ∧
  ∀ (x y : RegIdx) (s : State) (a b : Nat), a = (s.reg x).toNat → b = (s.reg y).toNat →
    WritesRegAndFlag (.addReg x y) s x (BitVec.ofNat 8 ((a + b) % 256)) (a + b > 255) ∧
    WritesRegAndFlag (.subReg x y) s x (BitVec.ofNat 8 ((a + 256 - b) % 256)) (a ≥ b) ∧
    WritesRegAndFlag (.subnReg x y) s x (BitVec.ofNat 8 ((b + 256 - a) % 256)) (b ≥ a)

/-- SHR and SHL shift `x[X]` by one place, VF is the bit shifted out; `Y` is ignored (decisions D11, D13; log 12,
21). -/
def Obligations.Shifts : Prop :=
  (∀ (c : Config) (w : Word), fieldG w = 8 →
    (fieldN w = 6 → decode c w = some (.shr (fieldX w))) ∧ (fieldN w = 0xE → decode c w = some (.shl (fieldX w)))) ∧
  ∀ (x : RegIdx) (s : State),
    WritesRegAndFlag (.shr x) s x (s.reg x >>> 1) ((s.reg x).toNat % 2 = 1) ∧
    WritesRegAndFlag (.shl x) s x (s.reg x <<< 1) ((s.reg x).toNat ≥ 128)

/-- LD I,NNN sets `I` to NNN and changes nothing else. -/
def Obligations.LdISetsTheIndex : Prop :=
  (∀ (c : Config) (w : Word), fieldG w = 0xA → decode c w = some (.ldI (fieldNNN w))) ∧
  ∀ (nnn : BitVec 12) (s : State), ∃ t, exec (.ldI nnn) s = .next t ∧ t.I.toNat = nnn.toNat ∧ t = { s with I := t.I }

/-- RND writes NN masked with the random byte; every value without bits outside NN is possible, no other is. -/
def Obligations.RndWritesAMaskedByte : Prop :=
  (∀ (c : Config) (w : Word), fieldG w = 0xC → decode c w = some (.rnd (fieldX w) (fieldNN w))) ∧
  ∀ (x : RegIdx) (nn : Byte) (s : State),
    WritesReg (.rnd x nn) s x (nn &&& s.rnd) ∧ (nn &&& s.rnd) &&& ~~~nn = 0 ∧
    ∀ v : Byte, v &&& ~~~nn = 0 → ∃ b : Byte, WritesReg (.rnd x nn) { s with rnd := b } x v

/-- LD Vx,DT reads the timer into the register and changes nothing else; run by an `Advance`, it reads what the timer
step of that `Advance` left. -/
def Obligations.LdVxDtReadsTheTimer : Prop :=
  (∀ (c : Config) (w : Word), fieldG w = 0xF → fieldNN w = 0x07 → decode c w = some (.ldVxDT (fieldX w))) ∧
  (∀ (x : RegIdx) (s : State), WritesReg (.ldVxDT x) s x s.dt) ∧
  ∀ (x : RegIdx) (s : State) (e : Rat) (b : Byte), Executes s e b → s.pc.toNat + 2 ≤ 4096 →
    decode s.cfg s.fetchWord = some (.ldVxDT x) →
    ∃ t, step s = .next t ∧ t.reg x = (s.timerStep e).dt ∧ t.dt = (s.timerStep e).dt

/-- LD DT,Vx sets the timer and leaves the accumulator alone (the spec's decision D31). -/
def Obligations.LdDtVxSetsTheTimer : Prop :=
  (∀ (c : Config) (w : Word), fieldG w = 0xF → fieldNN w = 0x15 → decode c w = some (.ldDTVx (fieldX w))) ∧
  ∀ (x : RegIdx) (s : State), ∃ t, exec (.ldDTVx x) s = .next t ∧ t.dt = s.reg x ∧ t = { s with dt := t.dt }

/-- ADD I,Vx adds modulo 65536 with no flag; LD F,Vx points `I` at the glyph, unmasked, and after reset the five bytes
there are the font's (the spec's decisions D2, D4, D8, D15; log 2, 4, 14, 25). -/
def Obligations.IndexArithmetic : Prop :=
  (∀ (c : Config) (w : Word), fieldG w = 0xF → fieldNN w = 0x1E → decode c w = some (.addI (fieldX w))) ∧
  (∀ (c : Config) (w : Word), fieldG w = 0xF → fieldNN w = 0x29 → decode c w = some (.ldF (fieldX w))) ∧
  ∀ (x : RegIdx) (s : State),
    (∃ t, exec (.addI x) s = .next t ∧ t.I.toNat = (s.I.toNat + (s.reg x).toNat) % 65536 ∧ t = { s with I := t.I }) ∧
    (legalConfig s.cfg →
      ∃ t, exec (.ldF x) s = .next t ∧ t.I.toNat = s.cfg.fontBase + 5 * (s.reg x).toNat ∧ t = { s with I := t.I } ∧
        ∀ k, k < 5 → (s.reg x).toNat < 16 →
          (State.resetWith s.cfg).byte (t.I.toNat + k) = s.cfg.fontData.getD (5 * (s.reg x).toNat + k) 0)

/-- LD Vx,K records X and enters WaitingForKey; `x[X]` and `pc` are not touched by it. -/
def Obligations.LdVxKEntersTheKeyWait : Prop :=
  (∀ (c : Config) (w : Word), fieldG w = 0xF → fieldNN w = 0x0A → decode c w = some (.ldVxK (fieldX w))) ∧
  ∀ (x : RegIdx) (s : State), exec (.ldVxK x) s = .next { s with keydest := x, waiting := true }

/-- SKP, SKNP and STOP latch NotImplemented for every X and do nothing else (the spec's decisions D17, D18, log 23; that
STOP ignores its X is D13, log 21). -/
def Obligations.UnsupportedInstructionsLatchNotImplemented : Prop :=
  (∀ (c : Config) (w : Word), fieldG w = 0xE → fieldNN w = 0x9E → decode c w = some (.skp (fieldX w))) ∧
  (∀ (c : Config) (w : Word), fieldG w = 0xE → fieldNN w = 0xA1 → decode c w = some (.sknp (fieldX w))) ∧
  (∀ (c : Config) (w : Word), fieldG w = 0xF → fieldNN w = 0x00 → decode c w = some .stop) ∧
  ∀ (x : RegIdx) (s : State),
    Latches (.skp x) s .notImplemented none ∧ Latches (.sknp x) s .notImplemented none ∧
    Latches .stop s .notImplemented none

/-- LD B,Vx stores three decimal digits that make up `x[X]` at `I`, `I+1`, `I+2`, and no other byte; when the range is
not inside memory it latches OutOfRange with nothing written (the spec's decisions D7, D16,
D17; log 23, 25). -/
def Obligations.LdBStoresDecimalDigits : Prop :=
  (∀ (c : Config) (w : Word), fieldG w = 0xF → fieldNN w = 0x33 → decode c w = some (.ldB (fieldX w))) ∧
  ∀ (x : RegIdx) (s : State), s.mem.wf s.cfg →
    (s.I.toNat + 3 ≤ 4096 → ∃ t, exec (.ldB x) s = .next t ∧
      (∃ h d u : Nat, h < 10 ∧ d < 10 ∧ u < 10 ∧ 100 * h + 10 * d + u = (s.reg x).toNat ∧
        t.byte s.I.toNat = BitVec.ofNat 8 h ∧ t.byte (s.I.toNat + 1) = BitVec.ofNat 8 d ∧
        t.byte (s.I.toNat + 2) = BitVec.ofNat 8 u) ∧
      (∀ a, a < s.I.toNat ∨ s.I.toNat + 3 ≤ a → t.byte a = s.byte a) ∧ t = { s with mem := t.mem }) ∧
    (4096 < s.I.toNat + 3 → Latches (.ldB x) s .outOfRange (some (s.I.toNat + 2)))

/-- LD [I],Vx stores registers 0 to X at `I` to `I+X` and no other byte, `I` unchanged; when the range is not inside
memory it latches OutOfRange with nothing written (the spec's decisions D7, D16,
D17; log 23, 25). -/
def Obligations.StoreRegistersToMemory : Prop :=
  (∀ (c : Config) (w : Word), fieldG w = 0xF → fieldNN w = 0x55 → decode c w = some (.storeRegs (fieldX w))) ∧
  ∀ (x : RegIdx) (s : State), s.mem.wf s.cfg →
    (s.I.toNat + x.val + 1 ≤ 4096 → ∃ t, exec (.storeRegs x) s = .next t ∧
      (∀ q : RegIdx, q ≤ x → t.byte (s.I.toNat + q.val) = s.reg q) ∧
      (∀ a, a < s.I.toNat ∨ s.I.toNat + x.val < a → t.byte a = s.byte a) ∧ t = { s with mem := t.mem }) ∧
    (4096 < s.I.toNat + x.val + 1 → Latches (.storeRegs x) s .outOfRange (some (s.I.toNat + x.val)))

/-- LD Vx,[I] loads registers 0 to X from `I` to `I+X` and no other register, `I` and memory unchanged; when the range
is not inside memory it latches OutOfRange with nothing written (the spec's decisions D7, D16,
D17; log 23, 25). -/
def Obligations.LoadRegistersFromMemory : Prop :=
  (∀ (c : Config) (w : Word), fieldG w = 0xF → fieldNN w = 0x65 → decode c w = some (.loadRegs (fieldX w))) ∧
  ∀ (x : RegIdx) (s : State),
    (s.I.toNat + x.val + 1 ≤ 4096 → ∃ t, exec (.loadRegs x) s = .next t ∧
      (∀ q : RegIdx, q ≤ x → t.reg q = s.byte (s.I.toNat + q.val)) ∧
      (∀ q : RegIdx, x < q → t.reg q = s.reg q) ∧ t = { s with x := t.x }) ∧
    (4096 < s.I.toNat + x.val + 1 → Latches (.loadRegs x) s .outOfRange (some (s.I.toNat + x.val)))

/-- Registers stored by LD [I],Vx and loaded back by LD Vx,[I] in any state of the same machine with that memory and that
`I` have the values they had (the spec's decision D16; the parameters, which every event keeps, are log 26). -/
def Obligations.LoadAfterStoreRestoresTheRegisters : Prop :=
  ∀ (x : RegIdx) (s t u : State), s.mem.wf s.cfg → s.I.toNat + x.val + 1 ≤ 4096 → exec (.storeRegs x) s = .next t →
    u.cfg = t.cfg → u.mem = t.mem → u.I = t.I → ∃ v, exec (.loadRegs x) u = .next v ∧ ∀ q : RegIdx, q ≤ x → v.reg q = s.reg q

/-- A store over the instruction at `pc` is what the next fetch reads. -/
def Obligations.StoredBytesAreTheNextFetchedWord : Prop :=
  ∀ (x : RegIdx) (s t : State), s.mem.wf s.cfg → 1 ≤ x.val → s.I = s.pc → s.I.toNat + x.val + 1 ≤ 4096 →
    exec (.storeRegs x) s = .next t → t.pc = s.pc ∧ t.fetchWord = wordOfBytes (s.reg 0) (s.reg 1)

/-! ## Drawing -/

/-- Every pixel of the 64 by 32 is its own bit of the video region (the layout is the spec's decisions D3, D5; log 3,
24). -/
def Obligations.PixelsAreDistinctVideoBits : Prop :=
  ∀ (c : Config) (px py qx qy : Nat), px < 64 → py < 32 → qx < 64 → qy < 32 →
    inVideo c (pixelAddr c px py) ∧ pixelBit px < 8 ∧
    (pixelAddr c px py = pixelAddr c qx qy → pixelBit px = pixelBit qx → px = qx ∧ py = qy)

/-- DRW completes whenever the sprite is inside memory or has no rows: VF becomes 0 or 1, `dirty` is set, and outside
the video region no byte, no other register and no other component changes. A sprite not inside memory latches
OutOfRange with nothing written; `N = 0` checks nothing (the spec's decisions D7, D9, D10,
D17; log 13, 23, 24). -/
def Obligations.DrwCompletesInsideTheVideoRegion : Prop :=
  (∀ (c : Config) (w : Word), fieldG w = 0xD → decode c w = some (.drw (fieldX w) (fieldY w) (fieldN w))) ∧
  ∀ (x y : RegIdx) (n : Fin 16) (s : State), legalConfig s.cfg → s.mem.wf s.cfg →
    (n = 0 ∨ s.I.toNat + n.val ≤ 4096 → ∃ t, exec (.drw x y n) s = .next t ∧
      (t.reg 15 = 0 ∨ t.reg 15 = 1) ∧ (∀ q, q ≠ 15 → t.reg q = s.reg q) ∧
      (∀ a, ¬inVideo s.cfg a → t.byte a = s.byte a) ∧ t.dirty = true ∧
      t = { s with x := t.x, mem := t.mem, dirty := t.dirty }) ∧
    (n = 0 → exec (.drw x y n) s = .next { s with x := s.x.set 15 0, dirty := true }) ∧
    (n ≠ 0 → 4096 < s.I.toNat + n.val → Latches (.drw x y n) s .outOfRange (some (s.I.toNat + n.val - 1)))

/-- One more row: a draw of `n+1` rows is the draw of `n` rows followed by row `n`, whose source byte is read from the
memory the first `n` rows left, XORed pixel by pixel at wrapped columns; VF adds this row's collisions. With the draw
of no rows this fixes every draw, one whose source overlaps the video region included (the spec's decisions D9, D10;
log 13, 24). -/
def Obligations.DrwAddsOneRowToTheShorterDraw : Prop :=
  ∀ (x y : RegIdx) (n n' : Fin 16) (s t u : State), legalConfig s.cfg → s.mem.wf s.cfg → n'.val = n.val + 1 → s.I.toNat + n'.val ≤ 4096 →
    exec (.drw x y n) s = .next t → exec (.drw x y n') s = .next u →
    let row := ((s.reg y).toNat + n.val) % 32
    let col := fun c => ((s.reg x).toNat + c) % 64
    let bit := fun c => (t.byte (s.I.toNat + n.val)).getLsbD (7 - c)
    (∀ qx qy, qx < 64 → qy < 32 →
      u.pixel qx qy =
        (t.pixel qx qy ^^ decide (qy = row ∧ ∃ c : Fin 8, col c.val = qx ∧ bit c.val = true))) ∧
    (u.reg 15 = 1 ↔ t.reg 15 = 1 ∨ ∃ c, c < 8 ∧ bit c = true ∧ t.pixel (col c) row = true)

/-- DRW of a sprite that lies outside the video region inverts exactly the pixels the sprite covers, each wrapped on
its own on both axes, and VF is 1 exactly when one of them was lit; with X or Y = 15 the coordinate is VF before the
instruction and VF ends as the collision flag (the spec's decisions D5, D9, D10; log 13, 24). -/
def Obligations.DrwXorsTheCoveredPixels : Prop :=
  ∀ (x y : RegIdx) (n : Fin 16) (s : State), legalConfig s.cfg → s.mem.wf s.cfg → s.I.toNat + n.val ≤ 4096 →
    (∀ r, r < n.val → ¬inVideo s.cfg (s.I.toNat + r)) →
    ∃ t, exec (.drw x y n) s = .next t ∧
      (∀ qx qy, qx < 64 → qy < 32 →
        (SpriteCovers s x y n.val qx qy → t.pixel qx qy = !s.pixel qx qy) ∧
        (¬SpriteCovers s x y n.val qx qy → t.pixel qx qy = s.pixel qx qy)) ∧
      (t.reg 15 = 1 ↔
        ∃ qx qy, qx < 64 ∧ qy < 32 ∧ SpriteCovers s x y n.val qx qy ∧ s.pixel qx qy = true)

/-- Drawing the identical sprite at the identical place twice restores memory exactly, and the second draw reports a
collision exactly when the sprite covered a pixel that was unlit before the first (positions not in VF, source outside
the video region). -/
def Obligations.DrwTwiceRestoresMemory : Prop :=
  ∀ (x y : RegIdx) (n : Fin 16) (s t u : State), legalConfig s.cfg → s.mem.wf s.cfg → x ≠ 15 → y ≠ 15 → s.I.toNat + n.val ≤ 4096 →
    (∀ r, r < n.val → ¬inVideo s.cfg (s.I.toNat + r)) →
    exec (.drw x y n) s = .next t → exec (.drw x y n) t = .next u →
    u.mem = s.mem ∧
    (u.reg 15 = 1 ↔
      ∃ qx qy, qx < 64 ∧ qy < 32 ∧ SpriteCovers s x y n.val qx qy ∧ s.pixel qx qy = false)
end

