-- ==== Sys2Proof/Laws/Decode.lean ====
section
/-! SUPPORT. Words and fields: the fields of a packed word, the bits a mask of the opcode table selects, and the two
bytes of a word. -/

namespace Sys2Proof

theorem fieldG_eq (w : Word) : fieldG w = w.toNat / 4096 := by
  have := w.isLt
  simp only [fieldG, bitsAt, Nat.reducePow]; omega

theorem fieldX_val (w : Word) : (fieldX w).val = w.toNat / 256 % 16 := by simp [fieldX, bitsAt]

theorem fieldY_val (w : Word) : (fieldY w).val = w.toNat / 16 % 16 := by simp [fieldY, bitsAt]

theorem fieldN_val (w : Word) : (fieldN w).val = w.toNat % 16 := by simp [fieldN, bitsAt]

theorem fieldNN_toNat (w : Word) : (fieldNN w).toNat = w.toNat % 256 := by simp [fieldNN, bitsAt]

theorem fieldNNN_toNat (w : Word) : (fieldNNN w).toNat = w.toNat % 4096 := by simp [fieldNNN, bitsAt]

theorem fieldG_lt (w : Word) : fieldG w < 16 := by
  have := w.isLt
  rw [fieldG_eq]; omega

/-! The fields of a packed word are the values packed. -/

variable {g : Nat} (hg : g < 16)

include hg

theorem packNNN_toNat (nnn : BitVec 12) : (packNNN g nnn).toNat = g * 0x1000 + nnn.toNat := by
  have := nnn.isLt
  simp only [packNNN, BitVec.toNat_ofNat]; omega

theorem packXNN_toNat (x : RegIdx) (nn : Byte) :
    (packXNN g x nn).toNat = g * 0x1000 + x.val * 0x100 + nn.toNat := by
  have := nn.isLt
  simp only [packXNN, BitVec.toNat_ofNat]; omega

theorem packXYN_toNat (x y n : Fin 16) :
    (packXYN g x y n).toNat = g * 0x1000 + x.val * 0x100 + y.val * 0x10 + n.val := by
  simp only [packXYN, BitVec.toNat_ofNat]; omega

theorem fieldG_packNNN (nnn : BitVec 12) : fieldG (packNNN g nnn) = g := by
  have := nnn.isLt
  rw [fieldG_eq, packNNN_toNat hg]; omega

theorem fieldNNN_packNNN (nnn : BitVec 12) : fieldNNN (packNNN g nnn) = nnn := by
  have := nnn.isLt
  apply BitVec.eq_of_toNat_eq
  rw [fieldNNN_toNat, packNNN_toNat hg]; omega

theorem fieldG_packXNN (x : RegIdx) (nn : Byte) : fieldG (packXNN g x nn) = g := by
  have := nn.isLt
  rw [fieldG_eq, packXNN_toNat hg]; omega

theorem fieldX_packXNN (x : RegIdx) (nn : Byte) : fieldX (packXNN g x nn) = x := by
  have := nn.isLt
  apply Fin.ext
  rw [fieldX_val, packXNN_toNat hg]; omega

theorem fieldNN_packXNN (x : RegIdx) (nn : Byte) : fieldNN (packXNN g x nn) = nn := by
  have := nn.isLt
  apply BitVec.eq_of_toNat_eq
  rw [fieldNN_toNat, packXNN_toNat hg]; omega

theorem fieldG_packXYN (x y n : Fin 16) : fieldG (packXYN g x y n) = g := by
  rw [fieldG_eq, packXYN_toNat hg]; omega

theorem fieldX_packXYN (x y n : Fin 16) : fieldX (packXYN g x y n) = x := by
  apply Fin.ext
  rw [fieldX_val, packXYN_toNat hg]; omega

theorem fieldY_packXYN (x y n : Fin 16) : fieldY (packXYN g x y n) = y := by
  apply Fin.ext
  rw [fieldY_val, packXYN_toNat hg]; omega

theorem fieldN_packXYN (x y n : Fin 16) : fieldN (packXYN g x y n) = n := by
  apply Fin.ext
  rw [fieldN_val, packXYN_toNat hg]; omega

omit hg

/-! The three masks of the opcode table. -/

theorem and_F000 (v : Nat) : v &&& 0xF000 = v / 4096 % 16 * 0x1000 := by
  apply Nat.eq_of_testBit_eq
  intro i
  rw [show v / 4096 % 16 * 0x1000 = v / 2 ^ 12 % 2 ^ 4 * 2 ^ 12 by norm_num,
    show (0xF000 : Nat) = (2 ^ 4 - 1) * 2 ^ 12 by norm_num]
  simp only [Nat.testBit_and, Nat.testBit_mul_two_pow, Nat.testBit_mod_two_pow, Nat.testBit_div_two_pow,
    Nat.testBit_two_pow_sub_one]
  by_cases h : 12 ≤ i
  · by_cases h2 : i - 12 < 4 <;> simp [h, h2]
  · simp [h]

theorem and_F000_or (v k : Nat) (hk : k ≤ 12) :
    v &&& (0xF000 ||| (2 ^ k - 1)) = v / 4096 % 16 * 0x1000 + v % 2 ^ k := by
  have hlt : v % 2 ^ k < 2 ^ 12 := lt_of_lt_of_le (Nat.mod_lt _ (by positivity)) (Nat.pow_le_pow_right (by norm_num) hk)
  rw [Nat.and_or_distrib_left, and_F000, Nat.and_two_pow_sub_one_eq_mod,
    show (0x1000 : Nat) = 2 ^ 12 by norm_num, Nat.mul_comm, Nat.two_pow_add_eq_or_of_lt hlt]

theorem mask_F000 (w : Word) : (w &&& 0xF000).toNat = fieldG w * 0x1000 := by
  have := w.isLt
  rw [BitVec.toNat_and, fieldG_eq]
  change w.toNat &&& 0xF000 = _
  rw [and_F000]; omega

theorem mask_F0FF (w : Word) : (w &&& 0xF0FF).toNat = fieldG w * 0x1000 + (fieldNN w).toNat := by
  have := w.isLt
  rw [BitVec.toNat_and, fieldG_eq, fieldNN_toNat]
  change w.toNat &&& (0xF000 ||| (2 ^ 8 - 1)) = _
  rw [and_F000_or _ 8 (by norm_num)]; omega

theorem mask_F00F (w : Word) : (w &&& 0xF00F).toNat = fieldG w * 0x1000 + (fieldN w).val := by
  have := w.isLt
  rw [BitVec.toNat_and, fieldG_eq, fieldN_val]
  change w.toNat &&& (0xF000 ||| (2 ^ 4 - 1)) = _
  rw [and_F000_or _ 4 (by norm_num)]; omega

/-! The two bytes of a word. -/

theorem wordOfBytes_toNat (hi lo : Byte) : (wordOfBytes hi lo).toNat = hi.toNat * 256 + lo.toNat := by
  have h := lo.isLt
  simp only [wordOfBytes, BitVec.toNat_append, Nat.shiftLeft_eq]
  rw [show hi.toNat * 2 ^ 8 = 2 ^ 8 * hi.toNat by ring, ← Nat.two_pow_add_eq_or_of_lt h]
  norm_num [mul_comm]

theorem highByte_toNat (w : Word) : (highByte w).toNat = w.toNat / 256 := by
  have := w.isLt
  simp [highByte, bitsAt]; omega

theorem lowByte_toNat (w : Word) : (lowByte w).toNat = w.toNat % 256 := by simp [lowByte, bitsAt]

/-- A word laid out high byte first is read back (R42). -/
theorem wordOfBytes_bytes (w : Word) : wordOfBytes (highByte w) (lowByte w) = w := by
  apply BitVec.eq_of_toNat_eq
  rw [wordOfBytes_toNat, highByte_toNat, lowByte_toNat]; omega

end Sys2Proof
end

