-- ==== Sys2Proof/Laws/State.lean ====
section
/-! SUPPORT. One lemma per field per named update of the state: what the update makes of the field. -/

namespace Sys2Proof.Machine

variable (s : State)

/-! `setReg` -/

@[simp] theorem setReg_x (r : RegIdx) (v : Byte) : (s.setReg r v).x = s.x.set r v := rfl
@[simp] theorem setReg_I (r : RegIdx) (v : Byte) : (s.setReg r v).I = s.I := rfl
@[simp] theorem setReg_pc (r : RegIdx) (v : Byte) : (s.setReg r v).pc = s.pc := rfl
@[simp] theorem setReg_sp (r : RegIdx) (v : Byte) : (s.setReg r v).sp = s.sp := rfl
@[simp] theorem setReg_stack (r : RegIdx) (v : Byte) : (s.setReg r v).stack = s.stack := rfl
@[simp] theorem setReg_mem (r : RegIdx) (v : Byte) : (s.setReg r v).mem = s.mem := rfl
@[simp] theorem setReg_dt (r : RegIdx) (v : Byte) : (s.setReg r v).dt = s.dt := rfl
@[simp] theorem setReg_acc (r : RegIdx) (v : Byte) : (s.setReg r v).acc = s.acc := rfl
@[simp] theorem setReg_cfg (r : RegIdx) (v : Byte) : (s.setReg r v).cfg = s.cfg := rfl
@[simp] theorem setReg_keys (r : RegIdx) (v : Byte) : (s.setReg r v).keys = s.keys := rfl
@[simp] theorem setReg_waiting (r : RegIdx) (v : Byte) : (s.setReg r v).waiting = s.waiting := rfl
@[simp] theorem setReg_keydest (r : RegIdx) (v : Byte) : (s.setReg r v).keydest = s.keydest := rfl
@[simp] theorem setReg_dirty (r : RegIdx) (v : Byte) : (s.setReg r v).dirty = s.dirty := rfl
@[simp] theorem setReg_fault (r : RegIdx) (v : Byte) : (s.setReg r v).fault = s.fault := rfl
@[simp] theorem setReg_curAddr (r : RegIdx) (v : Byte) : (s.setReg r v).curAddr = s.curAddr := rfl
@[simp] theorem setReg_curWord (r : RegIdx) (v : Byte) : (s.setReg r v).curWord = s.curWord := rfl
@[simp] theorem setReg_rnd (r : RegIdx) (v : Byte) : (s.setReg r v).rnd = s.rnd := rfl
@[simp] theorem setReg_inputs (r : RegIdx) (v : Byte) : (s.setReg r v).inputs = s.inputs := rfl
@[simp] theorem setReg_draws (r : RegIdx) (v : Byte) : (s.setReg r v).draws = s.draws := rfl
@[simp] theorem setReg_reply (r : RegIdx) (v : Byte) : (s.setReg r v).reply = s.reply := rfl

/-! `setPc` -/

@[simp] theorem setPc_x (v : Word) : (s.setPc v).x = s.x := rfl
@[simp] theorem setPc_I (v : Word) : (s.setPc v).I = s.I := rfl
@[simp] theorem setPc_pc (v : Word) : (s.setPc v).pc = v := rfl
@[simp] theorem setPc_sp (v : Word) : (s.setPc v).sp = s.sp := rfl
@[simp] theorem setPc_stack (v : Word) : (s.setPc v).stack = s.stack := rfl
@[simp] theorem setPc_mem (v : Word) : (s.setPc v).mem = s.mem := rfl
@[simp] theorem setPc_dt (v : Word) : (s.setPc v).dt = s.dt := rfl
@[simp] theorem setPc_acc (v : Word) : (s.setPc v).acc = s.acc := rfl
@[simp] theorem setPc_cfg (v : Word) : (s.setPc v).cfg = s.cfg := rfl
@[simp] theorem setPc_keys (v : Word) : (s.setPc v).keys = s.keys := rfl
@[simp] theorem setPc_waiting (v : Word) : (s.setPc v).waiting = s.waiting := rfl
@[simp] theorem setPc_keydest (v : Word) : (s.setPc v).keydest = s.keydest := rfl
@[simp] theorem setPc_dirty (v : Word) : (s.setPc v).dirty = s.dirty := rfl
@[simp] theorem setPc_fault (v : Word) : (s.setPc v).fault = s.fault := rfl
@[simp] theorem setPc_curAddr (v : Word) : (s.setPc v).curAddr = s.curAddr := rfl
@[simp] theorem setPc_curWord (v : Word) : (s.setPc v).curWord = s.curWord := rfl
@[simp] theorem setPc_rnd (v : Word) : (s.setPc v).rnd = s.rnd := rfl
@[simp] theorem setPc_inputs (v : Word) : (s.setPc v).inputs = s.inputs := rfl
@[simp] theorem setPc_draws (v : Word) : (s.setPc v).draws = s.draws := rfl
@[simp] theorem setPc_reply (v : Word) : (s.setPc v).reply = s.reply := rfl

/-! `setI` -/

@[simp] theorem setI_x (v : Word) : (s.setI v).x = s.x := rfl
@[simp] theorem setI_I (v : Word) : (s.setI v).I = v := rfl
@[simp] theorem setI_pc (v : Word) : (s.setI v).pc = s.pc := rfl
@[simp] theorem setI_sp (v : Word) : (s.setI v).sp = s.sp := rfl
@[simp] theorem setI_stack (v : Word) : (s.setI v).stack = s.stack := rfl
@[simp] theorem setI_mem (v : Word) : (s.setI v).mem = s.mem := rfl
@[simp] theorem setI_dt (v : Word) : (s.setI v).dt = s.dt := rfl
@[simp] theorem setI_acc (v : Word) : (s.setI v).acc = s.acc := rfl
@[simp] theorem setI_cfg (v : Word) : (s.setI v).cfg = s.cfg := rfl
@[simp] theorem setI_keys (v : Word) : (s.setI v).keys = s.keys := rfl
@[simp] theorem setI_waiting (v : Word) : (s.setI v).waiting = s.waiting := rfl
@[simp] theorem setI_keydest (v : Word) : (s.setI v).keydest = s.keydest := rfl
@[simp] theorem setI_dirty (v : Word) : (s.setI v).dirty = s.dirty := rfl
@[simp] theorem setI_fault (v : Word) : (s.setI v).fault = s.fault := rfl
@[simp] theorem setI_curAddr (v : Word) : (s.setI v).curAddr = s.curAddr := rfl
@[simp] theorem setI_curWord (v : Word) : (s.setI v).curWord = s.curWord := rfl
@[simp] theorem setI_rnd (v : Word) : (s.setI v).rnd = s.rnd := rfl
@[simp] theorem setI_inputs (v : Word) : (s.setI v).inputs = s.inputs := rfl
@[simp] theorem setI_draws (v : Word) : (s.setI v).draws = s.draws := rfl
@[simp] theorem setI_reply (v : Word) : (s.setI v).reply = s.reply := rfl

/-! `setDt` -/

@[simp] theorem setDt_x (v : Byte) : (s.setDt v).x = s.x := rfl
@[simp] theorem setDt_I (v : Byte) : (s.setDt v).I = s.I := rfl
@[simp] theorem setDt_pc (v : Byte) : (s.setDt v).pc = s.pc := rfl
@[simp] theorem setDt_sp (v : Byte) : (s.setDt v).sp = s.sp := rfl
@[simp] theorem setDt_stack (v : Byte) : (s.setDt v).stack = s.stack := rfl
@[simp] theorem setDt_mem (v : Byte) : (s.setDt v).mem = s.mem := rfl
@[simp] theorem setDt_dt (v : Byte) : (s.setDt v).dt = v := rfl
@[simp] theorem setDt_acc (v : Byte) : (s.setDt v).acc = s.acc := rfl
@[simp] theorem setDt_cfg (v : Byte) : (s.setDt v).cfg = s.cfg := rfl
@[simp] theorem setDt_keys (v : Byte) : (s.setDt v).keys = s.keys := rfl
@[simp] theorem setDt_waiting (v : Byte) : (s.setDt v).waiting = s.waiting := rfl
@[simp] theorem setDt_keydest (v : Byte) : (s.setDt v).keydest = s.keydest := rfl
@[simp] theorem setDt_dirty (v : Byte) : (s.setDt v).dirty = s.dirty := rfl
@[simp] theorem setDt_fault (v : Byte) : (s.setDt v).fault = s.fault := rfl
@[simp] theorem setDt_curAddr (v : Byte) : (s.setDt v).curAddr = s.curAddr := rfl
@[simp] theorem setDt_curWord (v : Byte) : (s.setDt v).curWord = s.curWord := rfl
@[simp] theorem setDt_rnd (v : Byte) : (s.setDt v).rnd = s.rnd := rfl
@[simp] theorem setDt_inputs (v : Byte) : (s.setDt v).inputs = s.inputs := rfl
@[simp] theorem setDt_draws (v : Byte) : (s.setDt v).draws = s.draws := rfl
@[simp] theorem setDt_reply (v : Byte) : (s.setDt v).reply = s.reply := rfl

/-! `setMem` -/

@[simp] theorem setMem_x (m : Memory) : (s.setMem m).x = s.x := rfl
@[simp] theorem setMem_I (m : Memory) : (s.setMem m).I = s.I := rfl
@[simp] theorem setMem_pc (m : Memory) : (s.setMem m).pc = s.pc := rfl
@[simp] theorem setMem_sp (m : Memory) : (s.setMem m).sp = s.sp := rfl
@[simp] theorem setMem_stack (m : Memory) : (s.setMem m).stack = s.stack := rfl
@[simp] theorem setMem_mem (m : Memory) : (s.setMem m).mem = m := rfl
@[simp] theorem setMem_dt (m : Memory) : (s.setMem m).dt = s.dt := rfl
@[simp] theorem setMem_acc (m : Memory) : (s.setMem m).acc = s.acc := rfl
@[simp] theorem setMem_cfg (m : Memory) : (s.setMem m).cfg = s.cfg := rfl
@[simp] theorem setMem_keys (m : Memory) : (s.setMem m).keys = s.keys := rfl
@[simp] theorem setMem_waiting (m : Memory) : (s.setMem m).waiting = s.waiting := rfl
@[simp] theorem setMem_keydest (m : Memory) : (s.setMem m).keydest = s.keydest := rfl
@[simp] theorem setMem_dirty (m : Memory) : (s.setMem m).dirty = s.dirty := rfl
@[simp] theorem setMem_fault (m : Memory) : (s.setMem m).fault = s.fault := rfl
@[simp] theorem setMem_curAddr (m : Memory) : (s.setMem m).curAddr = s.curAddr := rfl
@[simp] theorem setMem_curWord (m : Memory) : (s.setMem m).curWord = s.curWord := rfl
@[simp] theorem setMem_rnd (m : Memory) : (s.setMem m).rnd = s.rnd := rfl
@[simp] theorem setMem_inputs (m : Memory) : (s.setMem m).inputs = s.inputs := rfl
@[simp] theorem setMem_draws (m : Memory) : (s.setMem m).draws = s.draws := rfl
@[simp] theorem setMem_reply (m : Memory) : (s.setMem m).reply = s.reply := rfl

/-! `setDirty` -/

@[simp] theorem setDirty_x (v : Bool) : (s.setDirty v).x = s.x := rfl
@[simp] theorem setDirty_I (v : Bool) : (s.setDirty v).I = s.I := rfl
@[simp] theorem setDirty_pc (v : Bool) : (s.setDirty v).pc = s.pc := rfl
@[simp] theorem setDirty_sp (v : Bool) : (s.setDirty v).sp = s.sp := rfl
@[simp] theorem setDirty_stack (v : Bool) : (s.setDirty v).stack = s.stack := rfl
@[simp] theorem setDirty_mem (v : Bool) : (s.setDirty v).mem = s.mem := rfl
@[simp] theorem setDirty_dt (v : Bool) : (s.setDirty v).dt = s.dt := rfl
@[simp] theorem setDirty_acc (v : Bool) : (s.setDirty v).acc = s.acc := rfl
@[simp] theorem setDirty_cfg (v : Bool) : (s.setDirty v).cfg = s.cfg := rfl
@[simp] theorem setDirty_keys (v : Bool) : (s.setDirty v).keys = s.keys := rfl
@[simp] theorem setDirty_waiting (v : Bool) : (s.setDirty v).waiting = s.waiting := rfl
@[simp] theorem setDirty_keydest (v : Bool) : (s.setDirty v).keydest = s.keydest := rfl
@[simp] theorem setDirty_dirty (v : Bool) : (s.setDirty v).dirty = v := rfl
@[simp] theorem setDirty_fault (v : Bool) : (s.setDirty v).fault = s.fault := rfl
@[simp] theorem setDirty_curAddr (v : Bool) : (s.setDirty v).curAddr = s.curAddr := rfl
@[simp] theorem setDirty_curWord (v : Bool) : (s.setDirty v).curWord = s.curWord := rfl
@[simp] theorem setDirty_rnd (v : Bool) : (s.setDirty v).rnd = s.rnd := rfl
@[simp] theorem setDirty_inputs (v : Bool) : (s.setDirty v).inputs = s.inputs := rfl
@[simp] theorem setDirty_draws (v : Bool) : (s.setDirty v).draws = s.draws := rfl
@[simp] theorem setDirty_reply (v : Bool) : (s.setDirty v).reply = s.reply := rfl

/-! `pushPc` -/

@[simp] theorem pushPc_x : (s.pushPc).x = s.x := rfl
@[simp] theorem pushPc_I : (s.pushPc).I = s.I := rfl
@[simp] theorem pushPc_pc : (s.pushPc).pc = s.pc := rfl
@[simp] theorem pushPc_sp : (s.pushPc).sp = s.sp + 2 := rfl
@[simp] theorem pushPc_stack : (s.pushPc).stack = s.stack.set s.stackTop s.pc := rfl
@[simp] theorem pushPc_mem : (s.pushPc).mem = s.mem := rfl
@[simp] theorem pushPc_dt : (s.pushPc).dt = s.dt := rfl
@[simp] theorem pushPc_acc : (s.pushPc).acc = s.acc := rfl
@[simp] theorem pushPc_cfg : (s.pushPc).cfg = s.cfg := rfl
@[simp] theorem pushPc_keys : (s.pushPc).keys = s.keys := rfl
@[simp] theorem pushPc_waiting : (s.pushPc).waiting = s.waiting := rfl
@[simp] theorem pushPc_keydest : (s.pushPc).keydest = s.keydest := rfl
@[simp] theorem pushPc_dirty : (s.pushPc).dirty = s.dirty := rfl
@[simp] theorem pushPc_fault : (s.pushPc).fault = s.fault := rfl
@[simp] theorem pushPc_curAddr : (s.pushPc).curAddr = s.curAddr := rfl
@[simp] theorem pushPc_curWord : (s.pushPc).curWord = s.curWord := rfl
@[simp] theorem pushPc_rnd : (s.pushPc).rnd = s.rnd := rfl
@[simp] theorem pushPc_inputs : (s.pushPc).inputs = s.inputs := rfl
@[simp] theorem pushPc_draws : (s.pushPc).draws = s.draws := rfl
@[simp] theorem pushPc_reply : (s.pushPc).reply = s.reply := rfl

/-! `popPc` -/

@[simp] theorem popPc_x : (s.popPc).x = s.x := rfl
@[simp] theorem popPc_I : (s.popPc).I = s.I := rfl
@[simp] theorem popPc_pc : (s.popPc).pc = s.entry ((s.sp - 2).toNat / 2) := rfl
@[simp] theorem popPc_sp : (s.popPc).sp = s.sp - 2 := rfl
@[simp] theorem popPc_stack : (s.popPc).stack = s.stack := rfl
@[simp] theorem popPc_mem : (s.popPc).mem = s.mem := rfl
@[simp] theorem popPc_dt : (s.popPc).dt = s.dt := rfl
@[simp] theorem popPc_acc : (s.popPc).acc = s.acc := rfl
@[simp] theorem popPc_cfg : (s.popPc).cfg = s.cfg := rfl
@[simp] theorem popPc_keys : (s.popPc).keys = s.keys := rfl
@[simp] theorem popPc_waiting : (s.popPc).waiting = s.waiting := rfl
@[simp] theorem popPc_keydest : (s.popPc).keydest = s.keydest := rfl
@[simp] theorem popPc_dirty : (s.popPc).dirty = s.dirty := rfl
@[simp] theorem popPc_fault : (s.popPc).fault = s.fault := rfl
@[simp] theorem popPc_curAddr : (s.popPc).curAddr = s.curAddr := rfl
@[simp] theorem popPc_curWord : (s.popPc).curWord = s.curWord := rfl
@[simp] theorem popPc_rnd : (s.popPc).rnd = s.rnd := rfl
@[simp] theorem popPc_inputs : (s.popPc).inputs = s.inputs := rfl
@[simp] theorem popPc_draws : (s.popPc).draws = s.draws := rfl
@[simp] theorem popPc_reply : (s.popPc).reply = s.reply := rfl

/-! `raiseFault` -/

@[simp] theorem raiseFault_x (c : Cause) (w : Option Word) (b : Option Nat) : (s.raiseFault c w b).x = s.x := rfl
@[simp] theorem raiseFault_I (c : Cause) (w : Option Word) (b : Option Nat) : (s.raiseFault c w b).I = s.I := rfl
@[simp] theorem raiseFault_pc (c : Cause) (w : Option Word) (b : Option Nat) : (s.raiseFault c w b).pc = s.curAddr := rfl
@[simp] theorem raiseFault_sp (c : Cause) (w : Option Word) (b : Option Nat) : (s.raiseFault c w b).sp = s.sp := rfl
@[simp] theorem raiseFault_stack (c : Cause) (w : Option Word) (b : Option Nat) : (s.raiseFault c w b).stack = s.stack := rfl
@[simp] theorem raiseFault_mem (c : Cause) (w : Option Word) (b : Option Nat) : (s.raiseFault c w b).mem = s.mem := rfl
@[simp] theorem raiseFault_dt (c : Cause) (w : Option Word) (b : Option Nat) : (s.raiseFault c w b).dt = s.dt := rfl
@[simp] theorem raiseFault_acc (c : Cause) (w : Option Word) (b : Option Nat) : (s.raiseFault c w b).acc = s.acc := rfl
@[simp] theorem raiseFault_cfg (c : Cause) (w : Option Word) (b : Option Nat) : (s.raiseFault c w b).cfg = s.cfg := rfl
@[simp] theorem raiseFault_keys (c : Cause) (w : Option Word) (b : Option Nat) : (s.raiseFault c w b).keys = s.keys := rfl
@[simp] theorem raiseFault_waiting (c : Cause) (w : Option Word) (b : Option Nat) : (s.raiseFault c w b).waiting = s.waiting := rfl
@[simp] theorem raiseFault_keydest (c : Cause) (w : Option Word) (b : Option Nat) : (s.raiseFault c w b).keydest = s.keydest := rfl
@[simp] theorem raiseFault_dirty (c : Cause) (w : Option Word) (b : Option Nat) : (s.raiseFault c w b).dirty = s.dirty := rfl
@[simp] theorem raiseFault_fault (c : Cause) (w : Option Word) (b : Option Nat) : (s.raiseFault c w b).fault = some ⟨c, s.curAddr, w, b⟩ := rfl
@[simp] theorem raiseFault_curAddr (c : Cause) (w : Option Word) (b : Option Nat) : (s.raiseFault c w b).curAddr = s.curAddr := rfl
@[simp] theorem raiseFault_curWord (c : Cause) (w : Option Word) (b : Option Nat) : (s.raiseFault c w b).curWord = s.curWord := rfl
@[simp] theorem raiseFault_rnd (c : Cause) (w : Option Word) (b : Option Nat) : (s.raiseFault c w b).rnd = s.rnd := rfl
@[simp] theorem raiseFault_inputs (c : Cause) (w : Option Word) (b : Option Nat) : (s.raiseFault c w b).inputs = s.inputs := rfl
@[simp] theorem raiseFault_draws (c : Cause) (w : Option Word) (b : Option Nat) : (s.raiseFault c w b).draws = s.draws := rfl
@[simp] theorem raiseFault_reply (c : Cause) (w : Option Word) (b : Option Nat) : (s.raiseFault c w b).reply = s.reply := rfl

/-! `raiseExec` -/

@[simp] theorem raiseExec_x (c : Cause) (b : Option Nat) : (s.raiseExec c b).x = s.x := rfl
@[simp] theorem raiseExec_I (c : Cause) (b : Option Nat) : (s.raiseExec c b).I = s.I := rfl
@[simp] theorem raiseExec_pc (c : Cause) (b : Option Nat) : (s.raiseExec c b).pc = s.curAddr := rfl
@[simp] theorem raiseExec_sp (c : Cause) (b : Option Nat) : (s.raiseExec c b).sp = s.sp := rfl
@[simp] theorem raiseExec_stack (c : Cause) (b : Option Nat) : (s.raiseExec c b).stack = s.stack := rfl
@[simp] theorem raiseExec_mem (c : Cause) (b : Option Nat) : (s.raiseExec c b).mem = s.mem := rfl
@[simp] theorem raiseExec_dt (c : Cause) (b : Option Nat) : (s.raiseExec c b).dt = s.dt := rfl
@[simp] theorem raiseExec_acc (c : Cause) (b : Option Nat) : (s.raiseExec c b).acc = s.acc := rfl
@[simp] theorem raiseExec_cfg (c : Cause) (b : Option Nat) : (s.raiseExec c b).cfg = s.cfg := rfl
@[simp] theorem raiseExec_keys (c : Cause) (b : Option Nat) : (s.raiseExec c b).keys = s.keys := rfl
@[simp] theorem raiseExec_waiting (c : Cause) (b : Option Nat) : (s.raiseExec c b).waiting = s.waiting := rfl
@[simp] theorem raiseExec_keydest (c : Cause) (b : Option Nat) : (s.raiseExec c b).keydest = s.keydest := rfl
@[simp] theorem raiseExec_dirty (c : Cause) (b : Option Nat) : (s.raiseExec c b).dirty = s.dirty := rfl
@[simp] theorem raiseExec_fault (c : Cause) (b : Option Nat) : (s.raiseExec c b).fault = some ⟨c, s.curAddr, some s.curWord, b⟩ := rfl
@[simp] theorem raiseExec_curAddr (c : Cause) (b : Option Nat) : (s.raiseExec c b).curAddr = s.curAddr := rfl
@[simp] theorem raiseExec_curWord (c : Cause) (b : Option Nat) : (s.raiseExec c b).curWord = s.curWord := rfl
@[simp] theorem raiseExec_rnd (c : Cause) (b : Option Nat) : (s.raiseExec c b).rnd = s.rnd := rfl
@[simp] theorem raiseExec_inputs (c : Cause) (b : Option Nat) : (s.raiseExec c b).inputs = s.inputs := rfl
@[simp] theorem raiseExec_draws (c : Cause) (b : Option Nat) : (s.raiseExec c b).draws = s.draws := rfl
@[simp] theorem raiseExec_reply (c : Cause) (b : Option Nat) : (s.raiseExec c b).reply = s.reply := rfl

/-! `setFlagThenReg` -/

@[simp] theorem setFlagThenReg_x (f : Bool) (r : RegIdx) (v : Byte) : (s.setFlagThenReg f r v).x = (s.x.set flagReg (flagByte f)).set r v := rfl
@[simp] theorem setFlagThenReg_I (f : Bool) (r : RegIdx) (v : Byte) : (s.setFlagThenReg f r v).I = s.I := rfl
@[simp] theorem setFlagThenReg_pc (f : Bool) (r : RegIdx) (v : Byte) : (s.setFlagThenReg f r v).pc = s.pc := rfl
@[simp] theorem setFlagThenReg_sp (f : Bool) (r : RegIdx) (v : Byte) : (s.setFlagThenReg f r v).sp = s.sp := rfl
@[simp] theorem setFlagThenReg_stack (f : Bool) (r : RegIdx) (v : Byte) : (s.setFlagThenReg f r v).stack = s.stack := rfl
@[simp] theorem setFlagThenReg_mem (f : Bool) (r : RegIdx) (v : Byte) : (s.setFlagThenReg f r v).mem = s.mem := rfl
@[simp] theorem setFlagThenReg_dt (f : Bool) (r : RegIdx) (v : Byte) : (s.setFlagThenReg f r v).dt = s.dt := rfl
@[simp] theorem setFlagThenReg_acc (f : Bool) (r : RegIdx) (v : Byte) : (s.setFlagThenReg f r v).acc = s.acc := rfl
@[simp] theorem setFlagThenReg_cfg (f : Bool) (r : RegIdx) (v : Byte) : (s.setFlagThenReg f r v).cfg = s.cfg := rfl
@[simp] theorem setFlagThenReg_keys (f : Bool) (r : RegIdx) (v : Byte) : (s.setFlagThenReg f r v).keys = s.keys := rfl
@[simp] theorem setFlagThenReg_waiting (f : Bool) (r : RegIdx) (v : Byte) : (s.setFlagThenReg f r v).waiting = s.waiting := rfl
@[simp] theorem setFlagThenReg_keydest (f : Bool) (r : RegIdx) (v : Byte) : (s.setFlagThenReg f r v).keydest = s.keydest := rfl
@[simp] theorem setFlagThenReg_dirty (f : Bool) (r : RegIdx) (v : Byte) : (s.setFlagThenReg f r v).dirty = s.dirty := rfl
@[simp] theorem setFlagThenReg_fault (f : Bool) (r : RegIdx) (v : Byte) : (s.setFlagThenReg f r v).fault = s.fault := rfl
@[simp] theorem setFlagThenReg_curAddr (f : Bool) (r : RegIdx) (v : Byte) : (s.setFlagThenReg f r v).curAddr = s.curAddr := rfl
@[simp] theorem setFlagThenReg_curWord (f : Bool) (r : RegIdx) (v : Byte) : (s.setFlagThenReg f r v).curWord = s.curWord := rfl
@[simp] theorem setFlagThenReg_rnd (f : Bool) (r : RegIdx) (v : Byte) : (s.setFlagThenReg f r v).rnd = s.rnd := rfl
@[simp] theorem setFlagThenReg_inputs (f : Bool) (r : RegIdx) (v : Byte) : (s.setFlagThenReg f r v).inputs = s.inputs := rfl
@[simp] theorem setFlagThenReg_draws (f : Bool) (r : RegIdx) (v : Byte) : (s.setFlagThenReg f r v).draws = s.draws := rfl
@[simp] theorem setFlagThenReg_reply (f : Bool) (r : RegIdx) (v : Byte) : (s.setFlagThenReg f r v).reply = s.reply := rfl

/-! `timerStep` -/

@[simp] theorem timerStep_x (e : Rat) : (s.timerStep e).x = s.x := rfl
@[simp] theorem timerStep_I (e : Rat) : (s.timerStep e).I = s.I := rfl
@[simp] theorem timerStep_pc (e : Rat) : (s.timerStep e).pc = s.pc := rfl
@[simp] theorem timerStep_sp (e : Rat) : (s.timerStep e).sp = s.sp := rfl
@[simp] theorem timerStep_stack (e : Rat) : (s.timerStep e).stack = s.stack := rfl
@[simp] theorem timerStep_mem (e : Rat) : (s.timerStep e).mem = s.mem := rfl
@[simp] theorem timerStep_dt (e : Rat) : (s.timerStep e).dt = BitVec.ofNat 8 (s.dt.toNat - ticksIn (s.acc + e)) := rfl
@[simp] theorem timerStep_acc (e : Rat) : (s.timerStep e).acc = s.acc + e - ticksIn (s.acc + e) / 60 := rfl
@[simp] theorem timerStep_cfg (e : Rat) : (s.timerStep e).cfg = s.cfg := rfl
@[simp] theorem timerStep_keys (e : Rat) : (s.timerStep e).keys = s.keys := rfl
@[simp] theorem timerStep_waiting (e : Rat) : (s.timerStep e).waiting = s.waiting := rfl
@[simp] theorem timerStep_keydest (e : Rat) : (s.timerStep e).keydest = s.keydest := rfl
@[simp] theorem timerStep_dirty (e : Rat) : (s.timerStep e).dirty = s.dirty := rfl
@[simp] theorem timerStep_fault (e : Rat) : (s.timerStep e).fault = s.fault := rfl
@[simp] theorem timerStep_curAddr (e : Rat) : (s.timerStep e).curAddr = s.curAddr := rfl
@[simp] theorem timerStep_curWord (e : Rat) : (s.timerStep e).curWord = s.curWord := rfl
@[simp] theorem timerStep_rnd (e : Rat) : (s.timerStep e).rnd = s.rnd := rfl
@[simp] theorem timerStep_inputs (e : Rat) : (s.timerStep e).inputs = s.inputs := rfl
@[simp] theorem timerStep_draws (e : Rat) : (s.timerStep e).draws = s.draws := rfl
@[simp] theorem timerStep_reply (e : Rat) : (s.timerStep e).reply = s.reply := rfl

/-! `latch` -/

@[simp] theorem latch_x (b : Byte) : (s.latch b).x = s.x := rfl
@[simp] theorem latch_I (b : Byte) : (s.latch b).I = s.I := rfl
@[simp] theorem latch_pc (b : Byte) : (s.latch b).pc = s.pc := rfl
@[simp] theorem latch_sp (b : Byte) : (s.latch b).sp = s.sp := rfl
@[simp] theorem latch_stack (b : Byte) : (s.latch b).stack = s.stack := rfl
@[simp] theorem latch_mem (b : Byte) : (s.latch b).mem = s.mem := rfl
@[simp] theorem latch_dt (b : Byte) : (s.latch b).dt = s.dt := rfl
@[simp] theorem latch_acc (b : Byte) : (s.latch b).acc = s.acc := rfl
@[simp] theorem latch_cfg (b : Byte) : (s.latch b).cfg = s.cfg := rfl
@[simp] theorem latch_keys (b : Byte) : (s.latch b).keys = s.keys := rfl
@[simp] theorem latch_waiting (b : Byte) : (s.latch b).waiting = s.waiting := rfl
@[simp] theorem latch_keydest (b : Byte) : (s.latch b).keydest = s.keydest := rfl
@[simp] theorem latch_dirty (b : Byte) : (s.latch b).dirty = s.dirty := rfl
@[simp] theorem latch_fault (b : Byte) : (s.latch b).fault = s.fault := rfl
@[simp] theorem latch_curAddr (b : Byte) : (s.latch b).curAddr = s.pc := rfl
@[simp] theorem latch_curWord (b : Byte) : (s.latch b).curWord = s.curWord := rfl
@[simp] theorem latch_rnd (b : Byte) : (s.latch b).rnd = b := rfl
@[simp] theorem latch_inputs (b : Byte) : (s.latch b).inputs = s.inputs := rfl
@[simp] theorem latch_draws (b : Byte) : (s.latch b).draws = s.draws := rfl
@[simp] theorem latch_reply (b : Byte) : (s.latch b).reply = s.reply := rfl

/-! `fetched` -/

@[simp] theorem fetched_x : (s.fetched).x = s.x := rfl
@[simp] theorem fetched_I : (s.fetched).I = s.I := rfl
@[simp] theorem fetched_pc : (s.fetched).pc = s.pc + 2 := rfl
@[simp] theorem fetched_sp : (s.fetched).sp = s.sp := rfl
@[simp] theorem fetched_stack : (s.fetched).stack = s.stack := rfl
@[simp] theorem fetched_mem : (s.fetched).mem = s.mem := rfl
@[simp] theorem fetched_dt : (s.fetched).dt = s.dt := rfl
@[simp] theorem fetched_acc : (s.fetched).acc = s.acc := rfl
@[simp] theorem fetched_cfg : (s.fetched).cfg = s.cfg := rfl
@[simp] theorem fetched_keys : (s.fetched).keys = s.keys := rfl
@[simp] theorem fetched_waiting : (s.fetched).waiting = s.waiting := rfl
@[simp] theorem fetched_keydest : (s.fetched).keydest = s.keydest := rfl
@[simp] theorem fetched_dirty : (s.fetched).dirty = s.dirty := rfl
@[simp] theorem fetched_fault : (s.fetched).fault = s.fault := rfl
@[simp] theorem fetched_curAddr : (s.fetched).curAddr = s.curAddr := rfl
@[simp] theorem fetched_curWord : (s.fetched).curWord = s.fetchWord := rfl
@[simp] theorem fetched_rnd : (s.fetched).rnd = s.rnd := rfl
@[simp] theorem fetched_inputs : (s.fetched).inputs = s.inputs := rfl
@[simp] theorem fetched_draws : (s.fetched).draws = s.draws := rfl
@[simp] theorem fetched_reply : (s.fetched).reply = s.reply := rfl

/-! `report` -/

@[simp] theorem report_x : (s.report).x = s.x := rfl
@[simp] theorem report_I : (s.report).I = s.I := rfl
@[simp] theorem report_pc : (s.report).pc = s.pc := rfl
@[simp] theorem report_sp : (s.report).sp = s.sp := rfl
@[simp] theorem report_stack : (s.report).stack = s.stack := rfl
@[simp] theorem report_mem : (s.report).mem = s.mem := rfl
@[simp] theorem report_dt : (s.report).dt = s.dt := rfl
@[simp] theorem report_acc : (s.report).acc = s.acc := rfl
@[simp] theorem report_cfg : (s.report).cfg = s.cfg := rfl
@[simp] theorem report_keys : (s.report).keys = s.keys := rfl
@[simp] theorem report_waiting : (s.report).waiting = s.waiting := rfl
@[simp] theorem report_keydest : (s.report).keydest = s.keydest := rfl
@[simp] theorem report_dirty : (s.report).dirty = s.dirty := rfl
@[simp] theorem report_fault : (s.report).fault = s.fault := rfl
@[simp] theorem report_curAddr : (s.report).curAddr = s.curAddr := rfl
@[simp] theorem report_curWord : (s.report).curWord = s.curWord := rfl
@[simp] theorem report_rnd : (s.report).rnd = s.rnd := rfl
@[simp] theorem report_inputs : (s.report).inputs = s.inputs := rfl
@[simp] theorem report_draws : (s.report).draws = s.draws := rfl
@[simp] theorem report_reply : (s.report).reply = advanceAnswer s.fault := rfl

/-! `answer` -/

@[simp] theorem answer_x (r : Reply) : (s.answer r).x = s.x := rfl
@[simp] theorem answer_I (r : Reply) : (s.answer r).I = s.I := rfl
@[simp] theorem answer_pc (r : Reply) : (s.answer r).pc = s.pc := rfl
@[simp] theorem answer_sp (r : Reply) : (s.answer r).sp = s.sp := rfl
@[simp] theorem answer_stack (r : Reply) : (s.answer r).stack = s.stack := rfl
@[simp] theorem answer_mem (r : Reply) : (s.answer r).mem = s.mem := rfl
@[simp] theorem answer_dt (r : Reply) : (s.answer r).dt = s.dt := rfl
@[simp] theorem answer_acc (r : Reply) : (s.answer r).acc = s.acc := rfl
@[simp] theorem answer_cfg (r : Reply) : (s.answer r).cfg = s.cfg := rfl
@[simp] theorem answer_keys (r : Reply) : (s.answer r).keys = s.keys := rfl
@[simp] theorem answer_waiting (r : Reply) : (s.answer r).waiting = s.waiting := rfl
@[simp] theorem answer_keydest (r : Reply) : (s.answer r).keydest = s.keydest := rfl
@[simp] theorem answer_dirty (r : Reply) : (s.answer r).dirty = s.dirty := rfl
@[simp] theorem answer_fault (r : Reply) : (s.answer r).fault = s.fault := rfl
@[simp] theorem answer_curAddr (r : Reply) : (s.answer r).curAddr = s.curAddr := rfl
@[simp] theorem answer_curWord (r : Reply) : (s.answer r).curWord = s.curWord := rfl
@[simp] theorem answer_rnd (r : Reply) : (s.answer r).rnd = s.rnd := rfl
@[simp] theorem answer_inputs (r : Reply) : (s.answer r).inputs = s.inputs := rfl
@[simp] theorem answer_draws (r : Reply) : (s.answer r).draws = s.draws := rfl
@[simp] theorem answer_reply (r : Reply) : (s.answer r).reply = r := rfl

/-! `skipIf` -/

@[simp] theorem skipIf_x (c : Bool) : (s.skipIf c).x = s.x := by cases c <;> rfl
@[simp] theorem skipIf_I (c : Bool) : (s.skipIf c).I = s.I := by cases c <;> rfl
@[simp] theorem skipIf_pc (c : Bool) : (s.skipIf c).pc = if c then s.pc + 2 else s.pc := by
  cases c <;> rfl
@[simp] theorem skipIf_sp (c : Bool) : (s.skipIf c).sp = s.sp := by cases c <;> rfl
@[simp] theorem skipIf_stack (c : Bool) : (s.skipIf c).stack = s.stack := by cases c <;> rfl
@[simp] theorem skipIf_mem (c : Bool) : (s.skipIf c).mem = s.mem := by cases c <;> rfl
@[simp] theorem skipIf_dt (c : Bool) : (s.skipIf c).dt = s.dt := by cases c <;> rfl
@[simp] theorem skipIf_acc (c : Bool) : (s.skipIf c).acc = s.acc := by cases c <;> rfl
@[simp] theorem skipIf_cfg (c : Bool) : (s.skipIf c).cfg = s.cfg := by cases c <;> rfl
@[simp] theorem skipIf_keys (c : Bool) : (s.skipIf c).keys = s.keys := by cases c <;> rfl
@[simp] theorem skipIf_waiting (c : Bool) : (s.skipIf c).waiting = s.waiting := by cases c <;> rfl
@[simp] theorem skipIf_keydest (c : Bool) : (s.skipIf c).keydest = s.keydest := by cases c <;> rfl
@[simp] theorem skipIf_dirty (c : Bool) : (s.skipIf c).dirty = s.dirty := by cases c <;> rfl
@[simp] theorem skipIf_fault (c : Bool) : (s.skipIf c).fault = s.fault := by cases c <;> rfl
@[simp] theorem skipIf_curAddr (c : Bool) : (s.skipIf c).curAddr = s.curAddr := by cases c <;> rfl
@[simp] theorem skipIf_curWord (c : Bool) : (s.skipIf c).curWord = s.curWord := by cases c <;> rfl
@[simp] theorem skipIf_rnd (c : Bool) : (s.skipIf c).rnd = s.rnd := by cases c <;> rfl
@[simp] theorem skipIf_inputs (c : Bool) : (s.skipIf c).inputs = s.inputs := by cases c <;> rfl
@[simp] theorem skipIf_draws (c : Bool) : (s.skipIf c).draws = s.draws := by cases c <;> rfl
@[simp] theorem skipIf_reply (c : Bool) : (s.skipIf c).reply = s.reply := by cases c <;> rfl

/-! `eventTaken` changes only the model's own list of inputs and its draw counter. -/

@[simp] theorem eventTaken_x : s.eventTaken.x = s.x := by
  unfold State.eventTaken; split <;> rfl
@[simp] theorem eventTaken_I : s.eventTaken.I = s.I := by
  unfold State.eventTaken; split <;> rfl
@[simp] theorem eventTaken_pc : s.eventTaken.pc = s.pc := by
  unfold State.eventTaken; split <;> rfl
@[simp] theorem eventTaken_sp : s.eventTaken.sp = s.sp := by
  unfold State.eventTaken; split <;> rfl
@[simp] theorem eventTaken_stack : s.eventTaken.stack = s.stack := by
  unfold State.eventTaken; split <;> rfl
@[simp] theorem eventTaken_mem : s.eventTaken.mem = s.mem := by
  unfold State.eventTaken; split <;> rfl
@[simp] theorem eventTaken_dt : s.eventTaken.dt = s.dt := by
  unfold State.eventTaken; split <;> rfl
@[simp] theorem eventTaken_acc : s.eventTaken.acc = s.acc := by
  unfold State.eventTaken; split <;> rfl
@[simp] theorem eventTaken_cfg : s.eventTaken.cfg = s.cfg := by
  unfold State.eventTaken; split <;> rfl
@[simp] theorem eventTaken_keys : s.eventTaken.keys = s.keys := by
  unfold State.eventTaken; split <;> rfl
@[simp] theorem eventTaken_waiting : s.eventTaken.waiting = s.waiting := by
  unfold State.eventTaken; split <;> rfl
@[simp] theorem eventTaken_keydest : s.eventTaken.keydest = s.keydest := by
  unfold State.eventTaken; split <;> rfl
@[simp] theorem eventTaken_dirty : s.eventTaken.dirty = s.dirty := by
  unfold State.eventTaken; split <;> rfl
@[simp] theorem eventTaken_fault : s.eventTaken.fault = s.fault := by
  unfold State.eventTaken; split <;> rfl
@[simp] theorem eventTaken_curAddr : s.eventTaken.curAddr = s.curAddr := by
  unfold State.eventTaken; split <;> rfl
@[simp] theorem eventTaken_curWord : s.eventTaken.curWord = s.curWord := by
  unfold State.eventTaken; split <;> rfl
@[simp] theorem eventTaken_rnd : s.eventTaken.rnd = s.rnd := by
  unfold State.eventTaken; split <;> rfl
@[simp] theorem eventTaken_reply : s.eventTaken.reply = s.reply := by
  unfold State.eventTaken; split <;> rfl

/-! The two reads, through the updates. -/

@[simp] theorem setReg_byte (r : RegIdx) (v : Byte) (a : Nat) : (s.setReg r v).byte a = s.byte a := rfl
@[simp] theorem setPc_reg (v : Word) (q : RegIdx) : (s.setPc v).reg q = s.reg q := rfl
@[simp] theorem setPc_byte (v : Word) (a : Nat) : (s.setPc v).byte a = s.byte a := rfl
@[simp] theorem setI_reg (v : Word) (q : RegIdx) : (s.setI v).reg q = s.reg q := rfl
@[simp] theorem setI_byte (v : Word) (a : Nat) : (s.setI v).byte a = s.byte a := rfl
@[simp] theorem setDt_reg (v : Byte) (q : RegIdx) : (s.setDt v).reg q = s.reg q := rfl
@[simp] theorem setDt_byte (v : Byte) (a : Nat) : (s.setDt v).byte a = s.byte a := rfl
@[simp] theorem setMem_reg (m : Memory) (q : RegIdx) : (s.setMem m).reg q = s.reg q := rfl
@[simp] theorem setDirty_reg (v : Bool) (q : RegIdx) : (s.setDirty v).reg q = s.reg q := rfl
@[simp] theorem setDirty_byte (v : Bool) (a : Nat) : (s.setDirty v).byte a = s.byte a := rfl
@[simp] theorem pushPc_reg (q : RegIdx) : (s.pushPc).reg q = s.reg q := rfl
@[simp] theorem pushPc_byte (a : Nat) : (s.pushPc).byte a = s.byte a := rfl
@[simp] theorem popPc_reg (q : RegIdx) : (s.popPc).reg q = s.reg q := rfl
@[simp] theorem popPc_byte (a : Nat) : (s.popPc).byte a = s.byte a := rfl
@[simp] theorem raiseFault_reg (c : Cause) (w : Option Word) (b : Option Nat) (q : RegIdx) : (s.raiseFault c w b).reg q = s.reg q := rfl
@[simp] theorem raiseFault_byte (c : Cause) (w : Option Word) (b : Option Nat) (a : Nat) : (s.raiseFault c w b).byte a = s.byte a := rfl
@[simp] theorem raiseExec_reg (c : Cause) (b : Option Nat) (q : RegIdx) : (s.raiseExec c b).reg q = s.reg q := rfl
@[simp] theorem raiseExec_byte (c : Cause) (b : Option Nat) (a : Nat) : (s.raiseExec c b).byte a = s.byte a := rfl
@[simp] theorem setFlagThenReg_byte (f : Bool) (r : RegIdx) (v : Byte) (a : Nat) : (s.setFlagThenReg f r v).byte a = s.byte a := rfl
@[simp] theorem timerStep_reg (e : Rat) (q : RegIdx) : (s.timerStep e).reg q = s.reg q := rfl
@[simp] theorem timerStep_byte (e : Rat) (a : Nat) : (s.timerStep e).byte a = s.byte a := rfl
@[simp] theorem latch_reg (b : Byte) (q : RegIdx) : (s.latch b).reg q = s.reg q := rfl
@[simp] theorem latch_byte (b : Byte) (a : Nat) : (s.latch b).byte a = s.byte a := rfl
@[simp] theorem fetched_reg (q : RegIdx) : (s.fetched).reg q = s.reg q := rfl
@[simp] theorem fetched_byte (a : Nat) : (s.fetched).byte a = s.byte a := rfl
@[simp] theorem report_reg (q : RegIdx) : (s.report).reg q = s.reg q := rfl
@[simp] theorem report_byte (a : Nat) : (s.report).byte a = s.byte a := rfl
@[simp] theorem answer_reg (r : Reply) (q : RegIdx) : (s.answer r).reg q = s.reg q := rfl
@[simp] theorem answer_byte (r : Reply) (a : Nat) : (s.answer r).byte a = s.byte a := rfl
@[simp] theorem skipIf_reg (c : Bool) (q : RegIdx) : (s.skipIf c).reg q = s.reg q := by cases c <;> rfl
@[simp] theorem skipIf_byte (c : Bool) (a : Nat) : (s.skipIf c).byte a = s.byte a := by cases c <;> rfl
@[simp] theorem eventTaken_reg (q : RegIdx) : s.eventTaken.reg q = s.reg q := by simp [State.reg]
@[simp] theorem eventTaken_byte (a : Nat) : s.eventTaken.byte a = s.byte a := by simp [State.byte]
@[simp] theorem setMem_byte (m : Memory) (a : Nat) : (s.setMem m).byte a = m.get s.cfg a := rfl

/-- A write to a register is read back there, and every other register is as before. -/
theorem setReg_reg (r q : RegIdx) (v : Byte) : (s.setReg r v).reg q = if q = r then v else s.reg q := by
  simp only [State.reg, State.setReg, Vector.get_eq_getElem, Vector.getElem_set]
  by_cases h : q = r
  · simp [h]
  · have : ¬ r.val = q.val := fun e => h (Fin.ext e.symm)
    simp [h, this]

@[simp] theorem setReg_reg_same (r : RegIdx) (v : Byte) : (s.setReg r v).reg r = v := by simp [setReg_reg]

theorem setReg_reg_ne (r q : RegIdx) (v : Byte) (h : q ≠ r) : (s.setReg r v).reg q = s.reg q := by
  simp [setReg_reg, h]

/-- What the two writes of a flag-writing instruction leave in each register: the result wins (R115). -/
theorem setFlagThenReg_reg (f : Bool) (r q : RegIdx) (v : Byte) :
    (s.setFlagThenReg f r v).reg q = if q = r then v else if q = flagReg then flagByte f else s.reg q := by
  simp only [State.setFlagThenReg, setReg_reg]

/-- A state is its fields: two states with the same registers read through `reg` have the same register file. -/
theorem regs_ext {s t : State} (h : ∀ q, s.reg q = t.reg q) : s.x = t.x := by
  apply Vector.ext
  intro i hi
  simpa [State.reg, Vector.get_eq_getElem] using h ⟨i, hi⟩

end Sys2Proof.Machine
end

