-- ==== Sys2Proof/Laws/Memory.lean ====
section
/-! SUPPORT. Memory: a read after a write, the canonical form, and the range of bytes a block write changes. -/

namespace Sys2Proof.Machine

variable (m : Memory) {c : Config}

/-- Every entry of a well-formed tail lies above a bound. -/
abbrev Memory.above (m : Memory) (k : Nat) : Prop := ∀ c ∈ m, k < c.1

theorem Memory.wf_nil : Memory.wf [] c := by simp [Memory.wf]

theorem Memory.wf_cons {k : Nat} {v : Byte} {m : Memory} :
    Memory.wf ((k, v) :: m) c ↔ (k < memSize ∧ v ≠ resetByte c k) ∧ Memory.above m k ∧ Memory.wf m c := by
  simp only [Memory.wf, List.pairwise_cons, List.forall_mem_cons]
  tauto

/-- An address below every entry reads as unlisted. -/
theorem Memory.get_above {m : Memory} {k a : Nat} (h : Memory.above m k) (ha : a ≤ k) : m.get c a = resetByte c a := by
  induction m with
  | nil => rfl
  | cons d m ih =>
    have hd := h d (by simp)
    have : ¬ a = d.1 := by omega
    simp only [Memory.get, this, if_false]
    exact ih fun e he => h e (by simp [he])

theorem Memory.get_put {m : Memory} {a : Nat} (v : Byte) (h : m.get c a = resetByte c a) (b : Nat) :
    (Memory.put m c a v).get c b = if b = a then v else m.get c b := by
  unfold Memory.put
  split
  · next hv => by_cases hb : b = a <;> simp [hb, h, hv]
  · rfl

/-- READ AFTER WRITE: the written address reads as the byte written, every other address as before. -/
theorem Memory.get_set {m : Memory} (h : m.wf c) (a : Nat) (v : Byte) (b : Nat) :
    (m.set c a v).get c b = if b = a then v else m.get c b := by
  induction m with
  | nil => exact Memory.get_put v rfl b
  | cons d m ih =>
    obtain ⟨k, w⟩ := d
    obtain ⟨-, habove, hm⟩ := Memory.wf_cons.1 h
    simp only [Memory.set]
    split
    · next hlt =>
      refine Memory.get_put v ?_ b
      have : ¬ a = k := by omega
      simp only [Memory.get, this, if_false]
      exact Memory.get_above habove (by omega)
    · split
      · next hk =>
        subst hk
        rw [Memory.get_put v (Memory.get_above habove le_rfl)]
        by_cases hb : b = a <;> simp [Memory.get, hb]
      · next hk =>
        simp only [Memory.get, ih hm]
        by_cases hb : b = a
        · simp [hb, hk]
        · simp [hb]

theorem Memory.above_put {m : Memory} {k a : Nat} {v : Byte} (h : Memory.above m k) (ha : k < a) :
    Memory.above (Memory.put m c a v) k := by
  unfold Memory.put
  split
  · exact h
  · intro d hd
    rcases List.mem_cons.1 hd with rfl | hd
    · exact ha
    · exact h d hd

theorem Memory.above_set {m : Memory} {k a : Nat} {v : Byte} (h : Memory.above m k) (ha : k < a) :
    Memory.above (m.set c a v) k := by
  induction m with
  | nil => exact Memory.above_put h ha
  | cons d m ih =>
    obtain ⟨j, w⟩ := d
    have hm : Memory.above m k := fun d hd => h d (by simp [hd])
    simp only [Memory.set]
    split
    · exact Memory.above_put h ha
    · split
      · exact Memory.above_put hm ha
      · intro d hd
        rcases List.mem_cons.1 hd with rfl | hd
        · exact h _ (by simp)
        · exact ih hm d hd

theorem Memory.wf_put {m : Memory} {a : Nat} {v : Byte} (h : m.wf c) (habove : Memory.above m a) (ha : a < memSize) :
    (Memory.put m c a v).wf c := by
  unfold Memory.put
  split
  · exact h
  · next hv => exact Memory.wf_cons.2 ⟨⟨ha, hv⟩, habove, h⟩

/-- A WRITE KEEPS THE CANONICAL FORM. -/
theorem Memory.set_wf {m : Memory} (h : m.wf c) {a : Nat} (ha : a < memSize) (v : Byte) : (m.set c a v).wf c := by
  induction m with
  | nil => exact Memory.wf_put h (by simp) ha
  | cons d m ih =>
    obtain ⟨k, w⟩ := d
    obtain ⟨hk, habove, hm⟩ := Memory.wf_cons.1 h
    simp only [Memory.set]
    split
    · next hlt =>
      refine Memory.wf_put h ?_ ha
      intro d hd
      rcases List.mem_cons.1 hd with rfl | hd
      · exact hlt
      · exact lt_trans hlt (habove d hd)
    · split
      · next hk' => subst hk'; exact Memory.wf_put hm habove ha
      · next hlt hne => exact Memory.wf_cons.2 ⟨hk, Memory.above_set habove (by omega), ih hm⟩

/-- A block write keeps the canonical form. -/
theorem Memory.writeBytes_wf {m : Memory} (h : m.wf c) {a : Nat} {bs : List Byte} (ha : a + bs.length ≤ memSize) :
    (m.writeBytes c a bs).wf c := by
  induction bs generalizing m a with
  | nil => exact h
  | cons b bs ih =>
    simp only [List.length_cons] at ha
    exact ih (Memory.set_wf h (by omega) b) (by omega)

/-- What a block write leaves at every address: the block's own byte inside the block, the old byte outside. -/
theorem Memory.get_writeBytes {m : Memory} (h : m.wf c) {a : Nat} {bs : List Byte} (ha : a + bs.length ≤ memSize)
    (b : Nat) :
    (m.writeBytes c a bs).get c b = if a ≤ b ∧ b < a + bs.length then bs.getD (b - a) 0 else m.get c b := by
  induction bs generalizing m a with
  | nil =>
    rw [if_neg (by simp only [List.length_nil]; omega)]
    rfl
  | cons v bs ih =>
    simp only [List.length_cons] at ha
    simp only [Memory.writeBytes, List.length_cons]
    rw [ih (Memory.set_wf h (by omega) v) (by omega), Memory.get_set h]
    by_cases h1 : a + 1 ≤ b ∧ b < a + 1 + bs.length
    · have h2 : a ≤ b ∧ b < a + (bs.length + 1) := by omega
      have h3 : b - a = (b - (a + 1)) + 1 := by omega
      simp [h1, h2, h3]
    · by_cases h2 : b = a
      · subst h2; simp
      · have h3 : ¬ (a ≤ b ∧ b < a + (bs.length + 1)) := by omega
        rw [if_neg h1, if_neg h2, if_neg h3]

/-- EQUAL MEMORIES ARE EQUAL DATA: two canonical memories that read the same everywhere are the same list. -/
theorem Memory.ext_of_get {m n : Memory} (hm : m.wf c) (hn : n.wf c) (h : ∀ a, m.get c a = n.get c a) : m = n := by
  induction m generalizing n with
  | nil =>
    cases n with
    | nil => rfl
    | cons d n =>
      obtain ⟨j, w⟩ := d
      obtain ⟨⟨-, hw⟩, -, -⟩ := Memory.wf_cons.1 hn
      exact absurd (by simpa [Memory.get] using (h j).symm) hw
  | cons d m ih =>
    obtain ⟨k, v⟩ := d
    obtain ⟨⟨-, hv⟩, hma, hmw⟩ := Memory.wf_cons.1 hm
    cases n with
    | nil => exact absurd (by simpa [Memory.get] using h k) hv
    | cons d n =>
      obtain ⟨j, w⟩ := d
      obtain ⟨⟨-, hw⟩, hna, hnw⟩ := Memory.wf_cons.1 hn
      have hkj : k = j := by
        rcases lt_trichotomy k j with hlt | heq | hgt
        · have hk := h k
          have hne : ¬ k = j := by omega
          simp only [Memory.get, if_true, hne, if_false] at hk
          rw [Memory.get_above hna (by omega)] at hk
          exact absurd hk hv
        · exact heq
        · have hj := h j
          have hne : ¬ j = k := by omega
          simp only [Memory.get, if_true, hne, if_false] at hj
          rw [Memory.get_above hma (by omega)] at hj
          exact absurd hj.symm hw
      subst hkj
      have hvw : v = w := by simpa [Memory.get] using h k
      subst hvw
      have : m = n := by
        refine ih hmw hnw fun a => ?_
        by_cases ha : a = k
        · subst ha
          rw [Memory.get_above hma le_rfl, Memory.get_above hna le_rfl]
        · simpa [Memory.get, ha] using h a
      rw [this]

theorem Memory.length_readBytes (a n : Nat) : (m.readBytes c a n).length = n := by simp [Memory.readBytes]

theorem Memory.getD_readBytes {a n k : Nat} (hk : k < n) : (m.readBytes c a n).getD k 0 = m.get c (a + k) := by
  simp [Memory.readBytes, List.getD_eq_getElem?_getD, List.getElem?_map, List.getElem?_range hk]

theorem resetWith_mem_wf : (State.resetWith c).mem.wf c := Memory.wf_nil

end Sys2Proof.Machine
end

