-- ==== Sys2Proof/Laws/Draw.lean ====
section
/-! SUPPORT. Drawing: where a pixel lies, what flipping one pixel does to every pixel and every byte, and what a whole
draw leaves alone. -/

namespace Sys2Proof.Machine

variable {c : Config}

/-- The video region of a legal layout lies inside memory (R47). -/
theorem legal_video (h : legalConfig c) : c.videoBase + videoSize ≤ memSize := h.2.1

/-- A pixel's byte lies in the video region (R48). -/
theorem pixelAddr_inVideo {px py : Nat} (hx : px < 64) (hy : py < 32) : inVideo c (pixelAddr c px py) := by
  simp only [inVideo, pixelAddr, videoSize]; omega

theorem pixelAddr_lt (hc : c.videoBase + videoSize ≤ memSize) {px py : Nat} (hx : px < 64) (hy : py < 32) :
    pixelAddr c px py < memSize := by
  simp only [pixelAddr, videoSize] at *; omega

/-- Different pixels are different bits (R48). -/
theorem pixel_injective {px py qx qy : Nat} (hx : px < 64) (hqx : qx < 64)
    (ha : pixelAddr c px py = pixelAddr c qx qy) (hb : pixelBit px = pixelBit qx) : px = qx ∧ py = qy := by
  simp only [pixelAddr, pixelBit] at ha hb
  omega

theorem pixelBit_lt (px : Nat) : pixelBit px < 8 := by simp only [pixelBit]; omega

/-- XOR with a power of two changes exactly one bit. -/
theorem getLsbD_xor_pow (b : Byte) (k j : Nat) (hk : k < 8) :
    (b ^^^ BitVec.ofNat 8 (2 ^ k)).getLsbD j = (b.getLsbD j ^^ decide (j = k)) := by
  rw [BitVec.getLsbD_xor, BitVec.getLsbD_ofNat, Nat.testBit_two_pow]
  by_cases h : j = k
  · subst h; simp [hk]
  · simp [h, Ne.symm h]

variable (cv : Canvas) {px py : Nat}

theorem flip_wf (hc : c.videoBase + videoSize ≤ memSize) (h : cv.mem.wf c) (hx : px < 64) (hy : py < 32) :
    (cv.flip c px py).mem.wf c :=
  Memory.set_wf h (pixelAddr_lt hc hx hy) _

/-- Flipping a pixel changes no byte outside the video region. -/
theorem flip_get_outside (h : cv.mem.wf c) (hx : px < 64) (hy : py < 32) {a : Nat} (ha : ¬ inVideo c a) :
    (cv.flip c px py).mem.get c a = cv.mem.get c a := by
  have : ¬ a = pixelAddr c px py := fun e => ha (e ▸ pixelAddr_inVideo hx hy)
  simp [Canvas.flip, Memory.get_set h, this]

/-- ONE PIXEL: flipping pixel (`px`, `py`) inverts it and leaves every other pixel alone. -/
theorem flip_pixel (h : cv.mem.wf c) (hx : px < 64) {qx qy : Nat} (hqx : qx < 64) :
    (cv.flip c px py).mem.pixel c qx qy = (cv.mem.pixel c qx qy ^^ decide (qx = px ∧ qy = py)) := by
  simp only [Memory.pixel, Canvas.flip, Memory.get_set h]
  by_cases ha : pixelAddr c qx qy = pixelAddr c px py
  · rw [if_pos ha, getLsbD_xor_pow _ _ _ (pixelBit_lt px), ha]
    congr 1
    by_cases hb : pixelBit qx = pixelBit px
    · have := pixel_injective hqx hx ha hb
      simp [this]
    · have : ¬ (qx = px ∧ qy = py) := fun e => hb (by rw [e.1])
      simp [hb, this]
  · have : ¬ (qx = px ∧ qy = py) := fun e => ha (by rw [e.1, e.2])
    simp [ha, this]

@[simp] theorem flip_hit : (cv.flip c px py).hit = (cv.hit || cv.mem.pixel c px py) := rfl

/-- A fold keeps what each of its steps keeps. -/
theorem foldl_keeps {α β : Type} {P : α → Prop} (f : α → β → α) (l : List β) (a : α) (h0 : P a)
    (hstep : ∀ a b, P a → P (f a b)) : P (l.foldl f a) := by
  induction l generalizing a with
  | nil => exact h0
  | cons b l ih => exact ih (f a b) (hstep a b h0)

/-- What a draw keeps: the canonical form, and every byte outside the video region. -/
def KeepsOutside (c : Config) (m : Memory) (cv : Canvas) : Prop :=
  cv.mem.wf c ∧ ∀ a, ¬ inVideo c a → cv.mem.get c a = m.get c a

section
variable {m : Memory} {cv : Canvas} (hc : c.videoBase + videoSize ≤ memSize) (h : KeepsOutside c m cv)
include hc h

theorem KeepsOutside.flip (hx : px < 64) (hy : py < 32) : KeepsOutside c m (cv.flip c px py) :=
  ⟨flip_wf cv hc h.1 hx hy, fun a ha => by rw [flip_get_outside cv h.1 hx hy ha, h.2 a ha]⟩

theorem KeepsOutside.drawRow (vx : Nat) (hy : py < 32) (src : Byte) : KeepsOutside c m (cv.drawRow c vx py src) := by
  refine foldl_keeps _ _ _ h fun cv k hk => ?_
  split
  · exact KeepsOutside.flip hc hk (Nat.mod_lt _ (by decide)) hy
  · exact hk

/-- A whole draw changes only the video region and keeps the canonical form (R135, R136). -/
theorem KeepsOutside.drawRows (vx vy a n : Nat) : KeepsOutside c m (cv.drawRows c vx vy a n) :=
  foldl_keeps _ _ _ h fun _ _ hk => KeepsOutside.drawRow hc hk vx (Nat.mod_lt _ (by decide)) _

end

theorem drawn_keeps {s : State} (hc : legalConfig s.cfg) (h : s.mem.wf s.cfg) (x y : RegIdx) (n : Nat) :
    KeepsOutside s.cfg s.mem (s.drawn x y n) :=
  KeepsOutside.drawRows (legal_video hc) ⟨h, fun _ _ => rfl⟩ _ _ _ _

/-- The last row of a draw sees the memory the rows before it left (R139). -/
theorem drawRows_succ (vx vy a n : Nat) :
    cv.drawRows c vx vy a (n + 1) =
      (cv.drawRows c vx vy a n).drawRow c vx ((vy + n) % 32) ((cv.drawRows c vx vy a n).mem.get c (a + n)) := by
  simp [Canvas.drawRows, List.range_succ]

@[simp] theorem drawRows_zero (vx vy a : Nat) : cv.drawRows c vx vy a 0 = cv := rfl

/-- The pixel at a bit of a byte of the video region. -/
theorem get_eq_pixel (m : Memory) {k j : Nat} (hj : j < 8) :
    (m.get c (c.videoBase + k)).getLsbD j = m.pixel c (k % 8 * 8 + (7 - j)) (k / 8) := by
  have h1 : pixelAddr c (k % 8 * 8 + (7 - j)) (k / 8) = c.videoBase + k := by simp only [pixelAddr]; omega
  have h2 : pixelBit (k % 8 * 8 + (7 - j)) = j := by simp only [pixelBit]; omega
  rw [Memory.pixel, h1, h2]

/-- Two canonical memories with the same pixels and the same bytes outside the video region are equal. -/
theorem memory_eq_of_pixels {m n : Memory} (hm : m.wf c) (hn : n.wf c)
    (hout : ∀ a, ¬ inVideo c a → m.get c a = n.get c a)
    (hpix : ∀ px py, px < 64 → py < 32 → m.pixel c px py = n.pixel c px py) : m = n := by
  refine Memory.ext_of_get hm hn fun a => ?_
  by_cases ha : inVideo c a
  · obtain ⟨h1, h2⟩ := ha
    obtain ⟨k, rfl⟩ := Nat.exists_eq_add_of_le h1
    have hk : k < videoSize := by omega
    refine BitVec.eq_of_getLsbD_eq fun j hj => ?_
    rw [get_eq_pixel m hj, get_eq_pixel n hj]
    simp only [videoSize] at hk
    exact hpix _ _ (by omega) (by omega)
  · exact hout a ha

end Sys2Proof.Machine
end

