-- ==== Sys2Proof/Laws/Ops.lean ====
section
/-! SUPPORT. What the shared operations do, said once: the bounds check, the stack, the block loads, the digits. -/

namespace Sys2Proof.Machine

variable (s : State)

theorem inRange_iff {a n : Nat} : inRange a n = true ↔ a + n ≤ memSize := by simp [inRange]

/-- Inside memory the checked operation is the operation. -/
theorem checked_of_inRange {a n : Nat} (h : a + n ≤ memSize) (t : State) : s.checked a n t = t := by
  simp [State.checked, inRange_iff.2 h]

/-- Outside memory it is the fault OutOfRange with the highest address of the range, and nothing else (R183). -/
theorem checked_of_outOfRange {a n : Nat} (h : memSize < a + n) (t : State) :
    s.checked a n t = s.raiseExec .outOfRange (some (a + n - 1)) := by
  have : inRange a n = false := by simp [inRange]; omega
  simp [State.checked, this]

/-- Everything a checked operation can answer. -/
theorem checked_cases (a n : Nat) (t : State) :
    s.checked a n t = t ∨ s.checked a n t = s.raiseExec .outOfRange (some (a + n - 1)) := by
  unfold State.checked
  split
  · exact .inl rfl
  · exact .inr rfl

@[simp] theorem ea_zero : s.ea 0 = s.I.toNat := by simp [State.ea]

/-- What a store leaves at every address (R56). -/
theorem get_stored (h : s.mem.wf s.cfg) {a : Nat} {bs : List Byte} (ha : a + bs.length ≤ memSize) (b : Nat) :
    (s.stored a bs).get s.cfg b = if a ≤ b ∧ b < a + bs.length then bs.getD (b - a) 0 else s.byte b :=
  Memory.get_writeBytes h ha b

/-- A store keeps the canonical form. -/
theorem stored_wf (h : s.mem.wf s.cfg) {a : Nat} {bs : List Byte} (ha : a + bs.length ≤ memSize) :
    (s.stored a bs).wf s.cfg :=
  Memory.writeBytes_wf h ha

/-- What CLS leaves at every address (R81). -/
theorem get_cleared (hc : legalConfig s.cfg) (h : s.mem.wf s.cfg) (a : Nat) :
    (s.stored s.cfg.videoBase (List.replicate videoSize 0)).get s.cfg a =
      if inVideo s.cfg a then 0 else s.byte a := by
  have hlen : s.cfg.videoBase + (List.replicate videoSize (0 : Byte)).length ≤ memSize := by
    rw [List.length_replicate]; exact legal_video hc
  rw [get_stored s h hlen, List.length_replicate, List.getD_eq_getElem?_getD, List.getElem?_replicate]
  split
  · split <;> rfl
  · rfl

theorem length_regsUpTo (x : RegIdx) : (s.regsUpTo x).length = x.val + 1 := by
  simp [State.regsUpTo]

theorem getD_regsUpTo {x q : RegIdx} (h : q ≤ x) : (s.regsUpTo x).getD q.val 0 = s.reg q := by
  have hq : q.val < x.val + 1 := Nat.lt_succ_of_le h
  simp [State.regsUpTo, State.reg, Vector.get_eq_getElem, List.getD_eq_getElem?_getD, hq]

theorem length_bcdDigits (v : Byte) : (bcdDigits v).length = 3 := rfl

/-- The first `n` loads of `LD Vx,[I]`: registers below `n` come from memory, the rest are as before. -/
theorem loads_getElem (m : Memory) (c : Config) (a n : Nat) (rs : Vector Byte 16) (q : Nat) (hq : q < 16) :
    ((List.range n).foldl (fun rs k => rs.setIfInBounds k (m.get c (a + k))) rs)[q] =
      if q < n then m.get c (a + q) else rs[q] := by
  induction n with
  | zero => simp
  | succ n ih =>
    simp only [List.range_succ, List.foldl_append, List.foldl_cons, List.foldl_nil, Vector.getElem_setIfInBounds]
    rw [ih]
    by_cases h1 : n = q
    · subst h1; simp
    · by_cases h2 : q < n
      · have : q < n + 1 := by omega
        simp [h1, h2, this]
      · have : ¬ q < n + 1 := by omega
        simp [h1, h2, this]

/-- `LD Vx,[I]` register by register (R166). -/
theorem loadUpTo_get (m : Memory) (c : Config) (a : Nat) (x q : RegIdx) (rs : Vector Byte 16) :
    (loadUpTo m c a x rs).get q = if q ≤ x then m.get c (a + q.val) else rs.get q := by
  have := loads_getElem m c a (x.val + 1) rs q.val q.isLt
  rw [Vector.get_eq_getElem, loadUpTo, this]
  by_cases h : q ≤ x
  · have h' : q.val < x.val + 1 := Nat.lt_succ_of_le h
    simp [h, h']
  · have h' : ¬ q.val < x.val + 1 := fun e => h (Nat.le_of_lt_succ e)
    simp [h, h', Vector.get_eq_getElem]

/-- Pushing stores `pc` in the entry `sp` points at and leaves the others. -/
theorem pushPc_entry (h : s.stackTop < s.stack.length) (j : Nat) :
    s.pushPc.entry j = if j = s.stackTop then s.pc else s.entry j := by
  simp only [State.entry, pushPc_stack, List.getD_eq_getElem?_getD]
  by_cases hj : j = s.stackTop
  · subst hj; simp [h]
  · rw [List.getElem?_set_ne (fun e => hj e.symm), if_neg hj]

/-- Every entry of a stack whose entries are bounded is bounded, outside the array too (log 17). -/
theorem entry_le {b : Nat} (h : ∀ ret ∈ s.stack, ret.toNat ≤ b) (j : Nat) : (s.entry j).toNat ≤ b := by
  rw [State.entry, List.getD_eq_getElem?_getD]
  cases hj : s.stack[j]? with
  | none => simp
  | some ret => exact h ret (List.mem_of_getElem? hj)

theorem zextNNN_toNat (nnn : BitVec 12) : (zextNNN nnn).toNat = nnn.toNat := by
  have := nnn.isLt
  simp [zextNNN]; omega

theorem zextByte_toNat (v : Byte) : (zextByte v).toNat = v.toNat := by
  have := v.isLt
  simp [zextByte]; omega

end Sys2Proof.Machine
end

