-- ==== Sys2Proof/Laws/PerInstr.lean ====
section
/-! SUPPORT. Per instruction: the family EncodeFitsRow, that the word an instruction is encoded to has the bits its
row of the opcode table fixes. -/

namespace Sys2Proof.Laws.EncodeFitsRow

/-- The encoded word selects the instruction's row: `w AND mask == pattern` (`30_encoding.md`, opcode table). -/
def Statement (i : Instr) : Prop := encode i &&& (opcodeRow i).mask = (opcodeRow i).pattern

theorem fits_F000 {w p : Word} (h : fieldG w * 0x1000 = p.toNat) : w &&& 0xF000 = p :=
  BitVec.eq_of_toNat_eq ((mask_F000 w).trans h)

theorem fits_F0FF {g : Nat} (hg : g < 16) (x : RegIdx) (nn : Byte) {p : Word}
    (h : g * 0x1000 + nn.toNat = p.toNat) : packXNN g x nn &&& 0xF0FF = p :=
  BitVec.eq_of_toNat_eq ((mask_F0FF _).trans (by rw [fieldG_packXNN hg, fieldNN_packXNN hg, h]))

theorem fits_F00F {g : Nat} (hg : g < 16) (x y n : Fin 16) {p : Word}
    (h : g * 0x1000 + n.val = p.toNat) : packXYN g x y n &&& 0xF00F = p :=
  BitVec.eq_of_toNat_eq ((mask_F00F _).trans (by rw [fieldG_packXYN hg, fieldN_packXYN hg, h]))

theorem nop : Statement .nop := fits_F0FF (by decide) _ _ rfl
theorem cls : Statement .cls := fits_F0FF (by decide) _ _ rfl
theorem ret : Statement .ret := fits_F0FF (by decide) _ _ rfl
theorem jp (nnn) : Statement (.jp nnn) := fits_F000 (by rw [encode, fieldG_packNNN (by decide)]; rfl)
theorem call (nnn) : Statement (.call nnn) := fits_F000 (by rw [encode, fieldG_packNNN (by decide)]; rfl)
theorem seImm (x nn) : Statement (.seImm x nn) := fits_F000 (by rw [encode, fieldG_packXNN (by decide)]; rfl)
theorem sneImm (x nn) : Statement (.sneImm x nn) := fits_F000 (by rw [encode, fieldG_packXNN (by decide)]; rfl)
theorem seReg (x y) : Statement (.seReg x y) := fits_F00F (by decide) _ _ _ rfl
theorem ldImm (x nn) : Statement (.ldImm x nn) := fits_F000 (by rw [encode, fieldG_packXNN (by decide)]; rfl)
theorem addImm (x nn) : Statement (.addImm x nn) := fits_F000 (by rw [encode, fieldG_packXNN (by decide)]; rfl)
theorem ldReg (x y) : Statement (.ldReg x y) := fits_F00F (by decide) _ _ _ rfl
theorem orReg (x y) : Statement (.orReg x y) := fits_F00F (by decide) _ _ _ rfl
theorem andReg (x y) : Statement (.andReg x y) := fits_F00F (by decide) _ _ _ rfl
theorem xorReg (x y) : Statement (.xorReg x y) := fits_F00F (by decide) _ _ _ rfl
theorem addReg (x y) : Statement (.addReg x y) := fits_F00F (by decide) _ _ _ rfl
theorem subReg (x y) : Statement (.subReg x y) := fits_F00F (by decide) _ _ _ rfl
theorem shr (x) : Statement (.shr x) := fits_F00F (by decide) _ _ _ rfl
theorem subnReg (x y) : Statement (.subnReg x y) := fits_F00F (by decide) _ _ _ rfl
theorem shl (x) : Statement (.shl x) := fits_F00F (by decide) _ _ _ rfl
theorem sneReg (x y) : Statement (.sneReg x y) := fits_F00F (by decide) _ _ _ rfl
theorem ldI (nnn) : Statement (.ldI nnn) := fits_F000 (by rw [encode, fieldG_packNNN (by decide)]; rfl)
theorem jpV0 (nnn) : Statement (.jpV0 nnn) := fits_F000 (by rw [encode, fieldG_packNNN (by decide)]; rfl)
theorem rnd (x nn) : Statement (.rnd x nn) := fits_F000 (by rw [encode, fieldG_packXNN (by decide)]; rfl)
theorem drw (x y n) : Statement (.drw x y n) := fits_F000 (by rw [encode, fieldG_packXYN (by decide)]; rfl)
theorem skp (x) : Statement (.skp x) := fits_F0FF (by decide) _ _ rfl
theorem sknp (x) : Statement (.sknp x) := fits_F0FF (by decide) _ _ rfl
theorem stop : Statement .stop := fits_F0FF (by decide) _ _ rfl
theorem ldVxDT (x) : Statement (.ldVxDT x) := fits_F0FF (by decide) _ _ rfl
theorem ldVxK (x) : Statement (.ldVxK x) := fits_F0FF (by decide) _ _ rfl
theorem ldDTVx (x) : Statement (.ldDTVx x) := fits_F0FF (by decide) _ _ rfl
theorem pitch : Statement .pitch := fits_F0FF (by decide) _ _ rfl
theorem tone : Statement .tone := fits_F0FF (by decide) _ _ rfl
theorem addI (x) : Statement (.addI x) := fits_F0FF (by decide) _ _ rfl
theorem ldF (x) : Statement (.ldF x) := fits_F0FF (by decide) _ _ rfl
theorem ldB (x) : Statement (.ldB x) := fits_F0FF (by decide) _ _ rfl
theorem storeRegs (x) : Statement (.storeRegs x) := fits_F0FF (by decide) _ _ rfl
theorem loadRegs (x) : Statement (.loadRegs x) := fits_F0FF (by decide) _ _ rfl
theorem toneOther (nn) : Statement (.toneOther nn) := fits_F0FF (by decide) _ _ (by
  have := nn.isLt
  simp only [opcodeRow, BitVec.toNat_ofNat]; omega)

end Sys2Proof.Laws.EncodeFitsRow
end

