-- ==== Sys2Proof/Laws/Timer.lean ====
section
/-! SUPPORT. The timer step: how many ticks a time holds, and where the accumulator ends. -/

namespace Sys2Proof.Machine

/-- The ticks in `t` seconds are the whole sixtieths of it. -/
theorem ticksIn_le_iff {t : Rat} (ht : 0 ≤ t) (n : Nat) : n ≤ ticksIn t ↔ (n : Rat) / 60 ≤ t := by
  have h60 : (0 : Rat) < 60 := by norm_num
  have hfloor : (0 : Int) ≤ (60 * t).floor := Rat.le_floor_iff.2 (by push_cast; positivity)
  have h1 : n ≤ ticksIn t ↔ (n : Int) ≤ (60 * t).floor := by
    unfold ticksIn; omega
  rw [h1, Rat.le_floor_iff, div_le_iff₀ h60]
  push_cast
  rw [mul_comm]

/-- After the timer step the accumulator holds less than a tick (R191). -/
theorem timerStep_accInv {s : State} {e : Rat} (h : 0 ≤ s.acc + e) : AccInv (s.timerStep e) := by
  have h1 := (ticksIn_le_iff h (ticksIn (s.acc + e))).1 le_rfl
  have h2 : ¬ ((ticksIn (s.acc + e) + 1 : Nat) : Rat) / 60 ≤ s.acc + e := by
    rw [← ticksIn_le_iff h]; omega
  push_cast at h2
  constructor
  · simp only [timerStep_acc]; linarith
  · simp only [timerStep_acc]; linarith

end Sys2Proof.Machine
end

