-- ==== Sys2Proof/Laws/Step.lean ====
section
/-! SUPPORT. What `Advance` and `step` can do, case by case in the order of R188, and how a store is fetched. -/

namespace Sys2Proof.Machine

variable (s : State) (e : Rat) (b : Byte)

theorem elapsed_legal {e : Rat} : 0 ≤ e ↔ ¬ e.num < 0 := by
  rw [not_lt, Rat.num_nonneg]

/-- A negative `elapsed` is refused (R191). -/
theorem advance_refused (h : e < 0) : advance e b s = .next (s.answer .refused) := by
  have : e.num < 0 := Rat.num_neg.2 h
  simp [advance, this]

/-- A latched fault is answered again (R187). -/
theorem advance_latched (h : 0 ≤ e) {r : FaultRecord} (hf : s.fault = some r) :
    advance e b s = .next (s.answer (.fault r)) := by
  simp [advance, elapsed_legal.1 h, hf]

/-- Waiting for a key, `Advance` is its timer step (R194). -/
theorem advance_waiting (h : 0 ≤ e) (hf : s.fault = none) (hw : s.waiting = true) :
    advance e b s = .next (s.timerStep e).report := by
  simp [advance, elapsed_legal.1 h, hf, hw]

/-- Running, `Advance` is its timer step and then one instruction (R195). -/
theorem advance_running (h : 0 ≤ e) (hf : s.fault = none) (hw : s.waiting = false) :
    advance e b s = fetchAndExec b (s.timerStep e) := by
  simp [advance, elapsed_legal.1 h, hf, hw]

/-- With `pc` inside memory the word there is dispatched and executed (R193). -/
theorem fetchAndExec_inRange (h : s.pc.toNat + 2 ≤ memSize) :
    fetchAndExec b s = dispatchAndExec (s.latch b).fetched := by
  simp [fetchAndExec, inRange_iff.2 h]

/-- With `pc` at 4095 or more the fetch raises OutOfRange (R192). -/
theorem fetchAndExec_outOfRange (h : memSize < s.pc.toNat + 2) :
    fetchAndExec b s = .next ((s.latch b).raiseFault .outOfRange none (some (s.pc.toNat + 1))).report := by
  have : inRange s.pc.toNat 2 = false := by simp [inRange]; omega
  simp [fetchAndExec, this]

/-- An `Advance` that reaches the instruction part is the instruction part after the timer step. -/
theorem step_of_executes (h : Executes s e b) : step s = fetchAndExec b (s.eventTaken.timerStep e) := by
  rw [step, h.next]
  exact advance_running _ _ _ h.legal (by simpa using h.unfaulted) (by simpa using h.running)

theorem afterExec_next (t : State) : afterExec (.next t) = .next t.report := rfl

theorem dispatchAndExec_some {i : Instr} (h : decode s.cfg s.curWord = some i) :
    dispatchAndExec s = afterExec (exec i s) := by
  simp [dispatchAndExec, h]

theorem dispatchAndExec_none (h : decode s.cfg s.curWord = none) :
    dispatchAndExec s = .next (s.raiseExec .unknownOpcode none).report := by
  simp [dispatchAndExec, h]

/-- A word stored where `pc` points is the word fetched (R54). -/
theorem fetch_storeWord (hm : s.mem.wf s.cfg) (h : s.pc.toNat + 2 ≤ memSize) (w : Word) :
    (s.setMem (s.mem.storeWord s.cfg s.pc.toNat w)).fetchWord = w := by
  have hlen : s.pc.toNat + [highByte w, lowByte w].length ≤ memSize := h
  have h0 : s.pc.toNat ≤ s.pc.toNat ∧ s.pc.toNat < s.pc.toNat + [highByte w, lowByte w].length := by
    simp
  have h1 : s.pc.toNat ≤ s.pc.toNat + 1 ∧ s.pc.toNat + 1 < s.pc.toNat + [highByte w, lowByte w].length := by
    simp
  simp only [State.fetchWord, setMem_pc, setMem_byte, Memory.storeWord]
  rw [Memory.get_writeBytes hm hlen, Memory.get_writeBytes hm hlen, if_pos h0, if_pos h1]
  simp [wordOfBytes_bytes]

end Sys2Proof.Machine
end

