-- ==== Sys2Proof/Tests/Slice0.lean ====
section
/-! SUPPORT. The model's own tests: ill-formed terms, words written out from the patterns of `30_encoding.md` R64, one
step on small states with the results of `95_test_vectors.md` (the vector's name stands in each docstring), and for
every obligation with hypotheses a concrete state and operands that meet them. -/

namespace Sys2Proof.Tests

open Sys2Proof.Machine

/-! ## Helpers -/

/-- The reset state with the given registers. -/
def withRegs (rs : List (RegIdx × Byte)) : State := rs.foldl (fun s r => s.setReg r.1 r.2) State.reset

/-- `s` with bytes stored at `a`. -/
def withBytes (s : State) (a : Nat) (bs : List Byte) : State := s.setMem (s.stored a bs)

/-- The next state, if there is one. -/
def nextOf (r : Result) : Option State :=
  match r with
  | .next t => some t
  | .fault _ => none
  | .refused _ => none

/-- One event. -/
def event (s : State) (e : Event) : Option State := nextOf (step { s with inputs := [e] })

/-- One `Advance(0, rnd)` with the word `w` at `pc`. -/
def run (s : State) (w : Word) (rnd : Byte := 0) : Option State :=
  event (s.setMem (s.mem.storeWord s.cfg s.pc.toNat w)) (.advance 0 rnd)

/-- The named registers. -/
def regs (o : Option State) (qs : List RegIdx) : Option (List Byte) := o.map fun s => qs.map s.reg

/-- The `n` bytes from `a`. -/
def bytes (o : Option State) (a n : Nat) : Option (List Byte) := o.map fun s => s.mem.readBytes s.cfg a n

/-- `pc` and the latched fault. -/
def pcFault (o : Option State) : Option (Word × Option FaultRecord) := o.map fun s => (s.pc, s.fault)

/-! ## Ill-formed terms (R67, log 6) -/

theorem test_wf_refuses_pitch : Instr.wfIn [] .pitch = false := by decide
theorem test_wf_refuses_tone : Instr.wfIn [] .tone = false := by decide
theorem test_wf_each_on_its_own : Instr.wfIn [0x17] .pitch = true ∧ Instr.wfIn [0x17] .tone = false := by decide
/-- A further setter must be a member, and none of the table's own sub-opcodes. -/
theorem test_wf_refuses_toneOther :
    Instr.wfIn [0x17, 0x18] (.toneOther 0x42) = false ∧ Instr.wfIn [0x17] (.toneOther 0x17) = false ∧
    Instr.wfIn [0x18] (.toneOther 0x18) = false ∧ Instr.wfIn [0x07] (.toneOther 0x07) = false := by decide

/-! ## Decoding: the patterns of R64 written out -/

theorem test_decode_group0 :
    decode defaultConfig 0b0000_0000_0000_0000 = some .nop ∧ decode defaultConfig 0b0000_1111_0000_0000 = some .nop ∧
    decode defaultConfig 0b0000_0000_1110_0000 = some .cls ∧ decode defaultConfig 0b0000_0000_1110_1110 = some .ret ∧
    decode defaultConfig 0b0000_0000_1110_0001 = none := by decide
theorem test_decode_jumps :
    decode defaultConfig 0b0001_1010_1011_1100 = some (.jp 0xABC) ∧ decode defaultConfig 0b0010_1010_1011_1100 = some (.call 0xABC) ∧
    decode defaultConfig 0b1011_1010_1011_1100 = some (.jpV0 0xABC) := by decide
theorem test_decode_skips :
    decode defaultConfig 0b0011_0001_0100_0010 = some (.seImm 1 0x42) ∧ decode defaultConfig 0b0100_0001_0100_0010 = some (.sneImm 1 0x42) ∧
    decode defaultConfig 0b0101_0001_0010_0000 = some (.seReg 1 2) ∧ decode defaultConfig 0b1001_0001_0010_0000 = some (.sneReg 1 2) ∧
    decode defaultConfig 0b1001_0001_0010_1111 = none := by decide
theorem test_decode_immediates :
    decode defaultConfig 0b0110_1010_0010_1111 = some (.ldImm 10 0x2F) ∧ decode defaultConfig 0b0111_1010_0010_1111 = some (.addImm 10 0x2F) := by
  decide
theorem test_decode_alu_logic :
    decode defaultConfig 0b1000_0001_0010_0000 = some (.ldReg 1 2) ∧ decode defaultConfig 0b1000_0001_0010_0001 = some (.orReg 1 2) ∧
    decode defaultConfig 0b1000_0001_0010_0010 = some (.andReg 1 2) ∧ decode defaultConfig 0b1000_0001_0010_0011 = some (.xorReg 1 2) := by
  decide
theorem test_decode_alu_arithmetic :
    decode defaultConfig 0b1000_0001_0010_0100 = some (.addReg 1 2) ∧ decode defaultConfig 0b1000_0001_0010_0101 = some (.subReg 1 2) ∧
    decode defaultConfig 0b1000_0001_0010_0110 = some (.shr 1) ∧ decode defaultConfig 0b1000_0001_0010_0111 = some (.subnReg 1 2) ∧
    decode defaultConfig 0b1000_0001_0010_1110 = some (.shl 1) ∧ decode defaultConfig 0b1000_0001_0010_1000 = none := by decide
theorem test_decode_index_random_draw :
    decode defaultConfig 0b1010_1010_1011_1100 = some (.ldI 0xABC) ∧ decode defaultConfig 0b1100_0001_0000_1111 = some (.rnd 1 0x0F) ∧
    decode defaultConfig 0b1101_0001_0010_0101 = some (.drw 1 2 5) := by decide
theorem test_decode_keys :
    decode defaultConfig 0b1110_0011_1001_1110 = some (.skp 3) ∧ decode defaultConfig 0b1110_0011_1010_0001 = some (.sknp 3) ∧
    decode defaultConfig 0b1111_0011_0000_1010 = some (.ldVxK 3) ∧ decode defaultConfig 0b1110_0001_1001_1111 = none := by decide
theorem test_decode_groupF_timer_tone :
    decode defaultConfig 0b1111_0101_0000_0000 = some .stop ∧ decode defaultConfig 0b1111_0100_0000_0111 = some (.ldVxDT 4) ∧
    decode defaultConfig 0b1111_0100_0001_0101 = some (.ldDTVx 4) ∧ decode defaultConfig 0b1111_0100_0001_0111 = some .pitch ∧
    decode defaultConfig 0b1111_0100_0001_1000 = some .tone ∧ dispatch [] 0b1111_0100_0001_1000 = none := by decide
/-- A further member of `TONE_NOP_NN` (R65). -/
theorem test_decode_toneOther :
    dispatch [0x42] 0b1111_0011_0100_0010 = some (.toneOther 0x42) ∧ dispatch [] 0b1111_0011_0100_0010 = none := by decide
theorem test_decode_groupF_memory :
    decode defaultConfig 0b1111_0100_0001_1110 = some (.addI 4) ∧ decode defaultConfig 0b1111_0100_0010_1001 = some (.ldF 4) ∧
    decode defaultConfig 0b1111_0100_0011_0011 = some (.ldB 4) ∧ decode defaultConfig 0b1111_0100_0101_0101 = some (.storeRegs 4) ∧
    decode defaultConfig 0b1111_0100_0110_0101 = some (.loadRegs 4) ∧ decode defaultConfig 0b1111_0000_1111_1111 = none := by decide
theorem test_decodeBytes_is_big_endian : decodeBytes defaultConfig [0x6A, 0x2F, 0x11] = .ok (.ldImm 10 0x2F, [0x11]) := by rfl
theorem test_decodeBytes_truncated : decodeBytes defaultConfig [0x6A] = .error .truncated := by rfl
theorem test_decodeTableWord : decodeTableWord 16 0x6A2F = some (.ldImm 10 0x2F) := by decide

/-! ## The machine after reset -/

theorem test_default_config_is_legal : legalConfig defaultConfig := by decide

/-- S1 -/
theorem test_reset :
    State.reset.pc = 0x200 ∧ State.reset.dirty = true ∧ State.reset.frame.take 2 = [0, 0] := by decide
/-- R46: glyph 5, as P3 reads it. -/
theorem test_reset_font : State.reset.mem.readBytes defaultConfig 0x069 5 = [0xF0, 0x80, 0xF0, 0x10, 0xF0] := by decide
/-- `withFetchWord` makes the very next step run the word (log 11), from a faulted, waiting state too. -/
theorem test_withFetchWord :
    regs (nextOf (step (State.reset.withFetchWord 16 0x6A2F))) [10] = some [0x2F] ∧
    regs (nextOf (step ({ State.reset with
      pc := 0xFFF, waiting := true
      fault := some ⟨.stackOverflow, 0, none, none⟩ }.withFetchWord 16 0x6A2F))) [10] = some [0x2F] := by decide

/-! ## One step: groups 0 to 7 -/

/-- G0-1 -/
theorem test_nop : pcFault (run State.reset 0x0000) = some (0x202, none) := by decide
/-- G0-3 -/
theorem test_cls :
    let s := withBytes (withBytes { State.reset with dirty := false } 0xEFF [0xAA, 0xF0]) 0xFFF [0x01]
    bytes (run s 0x00E0) 0xEFF 2 = some [0xAA, 0] ∧ bytes (run s 0x00E0) 0xFFF 1 = some [0] ∧
    (run s 0x00E0).map State.dirty = some true := by decide +kernel
/-- G0-5 -/
theorem test_ret :
    let s : State := { State.reset with sp := 4, stack := (State.reset.stack.set 0 0x0202).set 1 0x0310 }
    (run s 0x00EE).map (fun t => (t.sp, t.pc)) = some (2, 0x0310) := by decide
/-- G0-6 -/
theorem test_ret_underflow :
    pcFault (run State.reset 0x00EE) = some (0x200, some ⟨.stackUnderflow, 0x200, some 0x00EE, none⟩) := by decide
/-- J-1 -/
theorem test_jp : pcFault (run { State.reset with pc := 0x20A } 0x1204) = some (0x204, none) := by decide
/-- J-7 -/
theorem test_call :
    (run { State.reset with pc := 0xFFE } 0x2ABC).map (fun t => (t.sp, t.entry 0, t.pc)) =
      some (2, 0x1000, 0xABC) := by decide
/-- J-6 -/
theorem test_call_overflow :
    pcFault (run { State.reset with sp := 32 } 0x2200) =
      some (0x200, some ⟨.stackOverflow, 0x200, some 0x2200, none⟩) := by decide
/-- J-10 -/
theorem test_jpV0 : pcFault (run (withRegs [(0, 0xFF)]) 0xBFFF) = some (0x10FE, none) := by decide
/-- K-1, K-2 -/
theorem test_seImm :
    pcFault (run (withRegs [(1, 0x42)]) 0x3142) = some (0x204, none) ∧
    pcFault (run (withRegs [(1, 0x43)]) 0x3142) = some (0x202, none) := by decide
/-- K-3, K-4 -/
theorem test_sneImm :
    pcFault (run (withRegs [(1, 0x42)]) 0x4142) = some (0x202, none) ∧
    pcFault (run (withRegs [(1, 0x43)]) 0x4142) = some (0x204, none) := by decide
/-- K-5, K-6 -/
theorem test_seReg :
    pcFault (run (withRegs [(1, 9), (2, 9)]) 0x5120) = some (0x204, none) ∧
    pcFault (run (withRegs [(1, 9), (2, 10)]) 0x5120) = some (0x202, none) := by decide
/-- K-8, K-9 -/
theorem test_sneReg :
    pcFault (run (withRegs [(1, 9), (2, 10)]) 0x9120) = some (0x204, none) ∧
    pcFault (run (withRegs [(1, 9), (2, 9)]) 0x9120) = some (0x202, none) := by decide
/-- I-1 -/
theorem test_ldImm : regs (run State.reset 0x6A2F) [10, 2] = some [0x2F, 0] := by decide
/-- I-3 -/
theorem test_addImm : regs (run (withRegs [(1, 0xFF), (15, 7)]) 0x7101) [1, 15] = some [0, 7] := by decide

/-! ## One step: group 8 -/

/-- A-1 -/
theorem test_ldReg : regs (run (withRegs [(2, 0x5A)]) 0x8120) [1, 2] = some [0x5A, 0x5A] := by decide
/-- A-4 -/
theorem test_orReg : regs (run (withRegs [(1, 0x0F), (2, 0xF0), (15, 1)]) 0x8121) [1, 15] = some [0xFF, 1] := by decide
/-- A-5 -/
theorem test_andReg : regs (run (withRegs [(1, 0xAA), (2, 0x0F), (15, 1)]) 0x8122) [1, 15] = some [0x0A, 1] := by decide
/-- A-6 -/
theorem test_xorReg : regs (run (withRegs [(1, 0xAA), (2, 0xFF), (15, 1)]) 0x8123) [1, 15] = some [0x55, 1] := by decide
/-- A-8, A-14 -/
theorem test_addReg :
    regs (run (withRegs [(1, 0xFF), (2, 0xFF)]) 0x8124) [1, 15] = some [0xFE, 1] ∧
    regs (run (withRegs [(15, 0x90)]) 0x8FF4) [15] = some [0x20] := by decide
/-- A-12: the operand in VF is read before the flag is written. -/
theorem test_addReg_y_is_flag : regs (run (withRegs [(1, 0xFF), (15, 1)]) 0x81F4) [1, 15] = some [0, 1] := by decide
/-- A-15, A-16 -/
theorem test_subReg :
    regs (run (withRegs [(2, 1)]) 0x8125) [1, 15] = some [0xFF, 0] ∧
    regs (run (withRegs [(1, 7), (2, 7)]) 0x8125) [1, 15] = some [0, 1] := by decide
/-- A-19 -/
theorem test_subReg_y_is_flag : regs (run (withRegs [(1, 5), (15, 9)]) 0x81F5) [1, 15] = some [0xFC, 0] := by decide
/-- A-20, A-21 -/
theorem test_shr :
    regs (run (withRegs [(2, 0xFF), (15, 1)]) 0x8126) [1, 2, 15] = some [0, 0xFF, 0] ∧
    regs (run (withRegs [(1, 0xFF)]) 0x8126) [1, 15] = some [0x7F, 1] := by decide
/-- A-24, A-27 -/
theorem test_subnReg :
    regs (run (withRegs [(1, 0x0A), (2, 5), (15, 1)]) 0x8127) [1, 15] = some [0xFB, 0] ∧
    regs (run (withRegs [(1, 1), (15, 1)]) 0x8F17) [15] = some [0] := by decide
/-- A-28, A-31 -/
theorem test_shl :
    regs (run (withRegs [(1, 0x80), (2, 0x55)]) 0x812E) [1, 2, 15] = some [0, 0x55, 1] ∧
    regs (run (withRegs [(15, 0x81)]) 0x8F0E) [15] = some [2] := by decide

/-! ## One step: index, random, draw -/

/-- X-2 -/
theorem test_ldI : (run State.reset 0xAFFF).map State.I = some 0x0FFF := by decide
/-- X-3 -/
theorem test_rnd : regs (run State.reset 0xC10F 0xA7) [1] = some [0x07] := by decide
/-- D-4: each pixel wraps on its own, on both axes. -/
theorem test_drw_wraps :
    let s := withBytes { withRegs [(0, 0xFF), (1, 0xFF), (15, 1)] with I := 0x300 } 0x300 [0xC0, 0xC0]
    bytes (run s 0xD012) 0xF00 9 = some [0x80, 0, 0, 0, 0, 0, 0, 0x01, 0] ∧
    bytes (run s 0xD012) 0xFF8 8 = some [0x80, 0, 0, 0, 0, 0, 0, 0x01] ∧ regs (run s 0xD012) [15] = some [0] := by
  decide
/-- D-12: a row's source is read when the row is reached. -/
theorem test_drw_source_overlaps :
    let s := withBytes { withRegs [(0, 8)] with I := 0xF00 } 0xF00 [0xFF, 0x0F]
    bytes (run s 0xD012) 0xF00 2 = some [0xFF, 0xF0] ∧ bytes (run s 0xD012) 0xF09 1 = some [0xF0] ∧
    regs (run s 0xD012) [15] = some [1] := by decide

/-! ## One step: keys and group F -/

/-- E-1 -/
theorem test_skp :
    pcFault (run State.reset 0xE19E) = some (0x200, some ⟨.notImplemented, 0x200, some 0xE19E, none⟩) := by decide
/-- E-2 -/
theorem test_sknp :
    pcFault (run { State.reset with pc := 0x204 } 0xE2A1) =
      some (0x204, some ⟨.notImplemented, 0x204, some 0xE2A1, none⟩) := by decide
/-- E-4 -/
theorem test_ldVxK :
    (run State.reset 0xF30A).map (fun t => (t.waiting, t.keydest, t.pc, t.reg 3)) = some (true, 3, 0x202, 0) := by
  decide
/-- F-1 -/
theorem test_stop :
    pcFault (run State.reset 0xF500) = some (0x200, some ⟨.notImplemented, 0x200, some 0xF500, none⟩) := by decide
/-- F-2 -/
theorem test_ldVxDT : regs (run { State.reset with dt := 0x3B } 0xF407) [4] = some [0x3B] := by decide +kernel
/-- F-3 -/
theorem test_ldDTVx :
    (run { withRegs [(0, 0x3C)] with acc := 1 / 120 } 0xF015).map (fun t => (t.dt, t.acc)) = some (0x3C, 1 / 120) := by
  decide +kernel
/-- F-4 -/
theorem test_pitch : pcFault (run State.reset 0xF517) = some (0x202, none) := by decide
/-- F-4 -/
theorem test_tone : pcFault (run State.reset 0xF218) = some (0x202, none) := by decide
/-- F-5, F-6 -/
theorem test_addI :
    (run { withRegs [(1, 0x20)] with I := 0x0FF0 } 0xF11E).map State.I = some 0x1010 ∧
    (run { withRegs [(1, 2)] with I := 0xFFFF } 0xF11E).map State.I = some 1 := by decide
/-- F-8, F-9 -/
theorem test_ldF :
    (run (withRegs [(0, 0x0F)]) 0xF029).map State.I = some 0x009B ∧
    (run (withRegs [(0, 0xFF)]) 0xF029).map State.I = some 0x054B := by decide
/-- F-10 -/
theorem test_ldB :
    bytes (run { withRegs [(0, 0xEA)] with I := 0x300 } 0xF033) 0x300 3 = some [2, 3, 4] := by decide
/-- F-12: nothing is written. -/
theorem test_ldB_outOfRange :
    let s : State := { withRegs [(0, 0xEA)] with pc := 0x202, I := 0xFFE }
    pcFault (run s 0xF033) = some (0x202, some ⟨.outOfRange, 0x202, some 0xF033, some 0x1000⟩) ∧
    bytes (run s 0xF033) 0xFFE 2 = some [0, 0] := by decide
/-- F-14 -/
theorem test_storeRegs :
    let s : State := { withRegs [(0, 1), (1, 2), (2, 3), (3, 4)] with I := 0x300 }
    bytes (run s 0xF255) 0x300 4 = some [1, 2, 3, 0] ∧ (run s 0xF255).map State.I = some 0x300 := by decide
/-- F-16 -/
theorem test_storeRegs_outOfRange :
    pcFault (run { withRegs [(0, 1)] with pc := 0x202, I := 0xFF1 } 0xFF55) =
      some (0x202, some ⟨.outOfRange, 0x202, some 0xFF55, some 0x1000⟩) := by decide
/-- F-18 -/
theorem test_loadRegs :
    regs (run (withBytes { State.reset with I := 0x300 } 0x300 [2, 3, 4, 5]) 0xF265) [0, 1, 2, 3] =
      some [2, 3, 4, 0] := by decide
/-- F-20: the instruction reads itself. -/
theorem test_loadRegs_reads_itself : regs (run { State.reset with I := 0x200 } 0xF165) [0, 1] = some [0xF1, 0x65] := by
  decide

/-! ## Other parameters (R6): the same machine at another legal layout -/

/-- Font at 0, video at 0x101 (no multiple of 8: R47), program at 0x300, one call, one tone sub-opcode. -/
def otherConfig : Config where
  programBase := 0x300
  fontBase := 0
  videoBase := 0x101
  fontData := List.replicate 80 0xAB
  stackDepth := 1
  toneNopNN := [0x42]

theorem test_other_config_is_legal : legalConfig otherConfig ∧ programMax otherConfig = 0xD00 := by decide
/-- R29, R47: `pc` and memory after reset, R81: the region CLS zeroes. -/
theorem test_other_layout :
    (State.resetWith otherConfig).pc = 0x300 ∧ (State.resetWith otherConfig).mem.readBytes otherConfig 79 2 = [0xAB, 0] ∧
    bytes (run (withBytes (State.resetWith otherConfig) 0x1FF [1, 2, 3]) 0x00E0) 0x1FF 3 = some [0, 0, 3] := by
  decide +kernel
/-- R92: the second nested CALL overflows. -/
theorem test_other_depth :
    pcFault (run { State.resetWith otherConfig with sp := 2 } 0x2400) =
      some (0x300, some ⟨.stackOverflow, 0x300, some 0x2400, none⟩) := by decide
/-- R162 -/
theorem test_other_font : (run ((State.resetWith otherConfig).setReg 0 3) 0xF029).map State.I = some 15 := by decide
/-- R65, R67: 0xF317 is unknown there, 0xF342 a no-op. -/
theorem test_toneOther :
    pcFault (run (State.resetWith otherConfig) 0xF342) = some (0x302, none) ∧
    pcFault (run (State.resetWith otherConfig) 0xF317) =
      some (0x300, some ⟨.unknownOpcode, 0x300, some 0xF317, none⟩) := by decide

/-! ## The events -/

/-- S12 -/
theorem test_unknown_opcode :
    pcFault (run State.reset 0x5FFF) = some (0x200, some ⟨.unknownOpcode, 0x200, some 0x5FFF, none⟩) := by decide
/-- J-3, second event -/
theorem test_fetch_outside :
    pcFault (event { State.reset with pc := 0xFFF } (.advance 0 0)) =
      some (0xFFF, some ⟨.outOfRange, 0xFFF, none, some 0x1000⟩) := by decide
/-- T-1, T-5, T-9 while waiting -/
theorem test_timer_saturates :
    (event { State.reset with dt := 120, waiting := true } (.advance 2 0)).map (fun t => (t.dt, t.acc)) = some (0, 0) ∧
    (event { State.reset with dt := 3, waiting := true } (.advance 10 0)).map (fun t => (t.dt, t.acc)) = some (0, 0) ∧
    (event { State.reset with dt := 255, waiting := true } (.advance (17 / 4) 0)).map State.dt = some 0 := by
  decide +kernel
/-- T-7, T-8 (second event) -/
theorem test_timer_accumulates :
    (event { State.reset with dt := 5, acc := 1 / 100, waiting := true } (.advance (1 / 150) 0)).map
      (fun t => (t.dt, t.acc)) = some (4, 0) ∧
    (event { State.reset with dt := 5, acc := 1 / 61, waiting := true } (.advance (1 / 61) 0)).map
      (fun t => (t.dt, t.acc)) = some (4, 59 / 3660) := by decide +kernel
/-- P4, event 8: the timer step comes before the instruction. -/
theorem test_timer_before_instruction :
    regs (event (withBytes { State.reset with dt := 30 } 0x200 [0xF4, 0x07]) (.advance (1 / 4) 0)) [4] =
      some [0x0F] := by decide +kernel
/-- T-10 -/
theorem test_latched_fault_stops_time :
    (event { State.reset with dt := 9, fault := some ⟨.stackUnderflow, 0x200, some 0x00EE, none⟩ } (.advance 1 0)).map
      (fun t => (t.dt, t.reply)) = some (9, .fault ⟨.stackUnderflow, 0x200, some 0x00EE, none⟩) := by decide
/-- E-6, E-7 -/
theorem test_key_press :
    let s : State := { State.reset with waiting := true, keydest := 3 }
    (event s (.setKeyState 7 true)).map (fun t => (t.reg 3, t.waiting, t.keys.get 7)) = some (7, false, true) ∧
    (event { s with keys := s.keys.set 7 true } (.setKeyState 7 true)).map
      (fun t => (t.reg 3, t.waiting, t.keys.get 7)) = some (0, true, true) := by decide
/-- E-8, E-9, E-10 -/
theorem test_key_level_only :
    (event { State.reset with waiting := true, keys := State.reset.keys.set 7 true } (.setKeyState 7 false)).map
      (fun t => (t.waiting, t.keys.get 7)) = some (true, false) ∧
    (event State.reset (.setKeyState 7 true)).map (fun t => (t.x, t.keys.get 7)) = some (State.reset.x, true) ∧
    (event State.reset (.setKeyState 16 true)).map (fun t => (t.keys, t.reply)) =
      some (State.reset.keys, .invalidKey) := by decide
/-- R199 -/
theorem test_readFrame :
    (event (withBytes State.reset 0xF00 [0x0F]) .readFrame).map State.reply =
      some (.frame (0x0F :: List.replicate 255 0) true) := by decide +kernel
/-- R200 -/
theorem test_clearDirty : (event State.reset .clearDirty).map State.dirty = some false := by decide
/-- R211: 3329 bytes do not fit. -/
theorem test_construct_too_long :
    nextOf (construct (List.replicate 3329 0) State.reset) = none := by decide +kernel

/-! ## Witnesses: for each obligation with hypotheses, a concrete state and operands that meet them all -/

/-- The reset state about to run `Advance(e, b)` on the word `w` at `pc = a`. -/
def ready (a : Word) (w : Word) (e : Rat) (b : Byte) : State :=
  { State.reset with pc := a, mem := State.reset.mem.storeWord defaultConfig a.toNat w, inputs := [.advance e b] }

theorem ready_executes (a w : Word) (b : Byte) : Executes (ready a w 0 b) 0 b := ⟨rfl, le_rfl, rfl, rfl⟩

/-- A fault record. -/
def latched : FaultRecord := ⟨.stackUnderflow, 0x200, some 0x00EE, none⟩

theorem witness_DecodeOfEncodeIsTheInstruction :
    Instr.wf defaultConfig (.drw 15 15 15) = true ∧ Instr.wf defaultConfig .pitch = true ∧
    Instr.wf otherConfig (.toneOther 0x42) = true := by decide
theorem witness_EncodeOfDecodeIsTheWordUpToIgnoredFields :
    decode defaultConfig 0x8FF6 = some (.shr 15) ∧ decode defaultConfig 0xFF17 = some .pitch := by decide
theorem witness_DecoderSelectsTheOpcodeTableRow :
    Instr.wf defaultConfig .tone = true ∧ (0xFF18 : Word) &&& (opcodeRow .tone).mask = (opcodeRow .tone).pattern := by decide
/-- One illegal word for each clause, and a legal neighbour of each. -/
theorem witness_UnknownOpcodeIsExactlyTheIllegalWords :
    (dispatch [] 0x00E1 = none ∧ dispatch [] 0x0FE0 ≠ none) ∧ (dispatch [] 0x5FFF = none ∧ dispatch [] 0x5FF0 ≠ none) ∧
    (dispatch [] 0x9001 = none ∧ dispatch [] 0x9000 ≠ none) ∧ (dispatch [] 0x8008 = none ∧ dispatch [] 0x800E ≠ none) ∧
    (dispatch [] 0xE000 = none ∧ dispatch [] 0xE09E ≠ none) ∧ (dispatch [] 0xF0FF = none ∧ dispatch [] 0xF000 ≠ none) ∧
    (dispatch [] 0xF017 = none ∧ dispatch [0x17] 0xF017 ≠ none) := by decide
/-- The last address a word can be fetched from. -/
theorem witness_StepRunsTheDecodedInstruction :
    let s := ready 0xFFE 0x6A2F 0 7
    Executes s 0 7 ∧ s.pc.toNat + 2 ≤ 4096 ∧
    decode s.cfg (wordOfBytes (s.byte s.pc.toNat) (s.byte (s.pc.toNat + 1))) = some (.ldImm 10 0x2F) ∧
    isControl (.ldImm 10 0x2F) = false ∧ (∃ t, step s = .next t) ∧ (nextOf (step s)).map State.fault = some none :=
  ⟨ready_executes _ _ _, by decide, by decide, by decide, ⟨_, rfl⟩, by decide⟩
theorem witness_UnknownOpcodeIsLatchedPrecisely :
    let s := ready 0x200 0x5FFF 0 7
    Executes s 0 7 ∧ s.pc.toNat + 2 ≤ 4096 ∧ decode s.cfg s.fetchWord = none :=
  ⟨ready_executes _ _ _, by decide, by decide⟩
/-- The first address no word can be fetched from. -/
theorem witness_FetchOutsideMemoryLatchesOutOfRange :
    let s : State := { State.reset with pc := 0xFFF, inputs := [.advance 0 7] }
    Executes s 0 7 ∧ 4096 < s.pc.toNat + 2 := ⟨⟨rfl, le_rfl, rfl, rfl⟩, by decide⟩
theorem witness_LatchedFaultStopsTheEngine :
    let s : State := { State.reset with fault := some latched, inputs := [.advance 0 0] }
    (0 : Rat) ≤ 0 ∧ s.nextEvent = .advance 0 0 ∧ s.fault = some latched ∧ (∀ p, s.nextEvent ≠ .construct p) ∧
    ∃ t, step s = .next t := ⟨le_rfl, rfl, rfl, (by intro p h; cases h), _, rfl⟩
theorem witness_WaitingAdvanceIsItsTimerStep :
    let s : State := { State.reset with waiting := true, dt := 5, inputs := [.advance (1 / 60) 0] }
    (0 : Rat) ≤ 1 / 60 ∧ s.nextEvent = .advance (1 / 60) 0 ∧ s.fault = none ∧ s.waiting = true :=
  ⟨by norm_num, rfl, rfl, rfl⟩
theorem witness_NegativeElapsedIsRefused :
    (-1 : Rat) < 0 ∧ State.nextEvent { State.reset with inputs := [.advance (-1) 0] } = .advance (-1) 0 :=
  ⟨by norm_num, rfl⟩
theorem witness_TimerStepIsTheWhileLoop : (60 * (State.reset.acc + 1 / 20)).floor.toNat ≤ 3 := by decide +kernel
theorem witness_TimerStepsAddUp : (0 : Rat) ≤ State.reset.acc ∧ (0 : Rat) ≤ 1 / 120 ∧ (0 : Rat) ≤ 1 / 120 :=
  ⟨le_rfl, by norm_num, by norm_num⟩
/-- A key that wakes, the last key without an edge, and the two identifiers next to the valid ones. -/
theorem witness_SetKeyStateRecordsAndWakes :
    let ev := fun k p => State.nextEvent { State.reset with waiting := true, inputs := [.setKeyState k p] }
    (ev 0 true = .setKeyState ((0 : Fin 16).val : Int) true ∧ State.reset.keys.get 0 = false) ∧
    (ev 15 false = .setKeyState ((15 : Fin 16).val : Int) false ∧ ¬(false = true)) ∧
    (ev (-1) true = .setKeyState (-1) true ∧ (-1 : Int) < 0) ∧ (ev 16 true = .setKeyState 16 true ∧ (16 : Int) > 15) := by
  decide
/-- Its first clause. -/
theorem witness_SetKeyStateRecordsAndWakes_advance :
    let s : State := { State.reset with waiting := true, inputs := [.advance 0 0] }
    s.nextEvent = .advance 0 0 ∧ s.waiting = true ∧ ∃ t, step s = .next t := ⟨rfl, rfl, _, rfl⟩
theorem witness_KeyWaitEndsOnlyOnAPressEdge :
    let s : State := { State.reset with waiting := true, keydest := 15, inputs := [.setKeyState 0 true] }
    let u : State := { State.reset with waiting := true, inputs := [.construct []] }
    s.waiting = true ∧ (nextOf (step s)).map State.waiting = some false ∧
    u.waiting = true ∧ (nextOf (step u)).map State.waiting = some false := by decide
theorem witness_ReadFrameReportsTheVideoRegion :
    State.nextEvent { State.reset with inputs := [.readFrame] } = .readFrame := rfl
theorem witness_DirtyIsClearedOnlyByClearDirty :
    let s : State := { State.reset with inputs := [.clearDirty] }
    s.nextEvent = .clearDirty ∧ s.dirty = true ∧ (nextOf (step s)).map State.dirty = some false := by decide
/-- The longest program, and the empty one, at the default parameters. -/
theorem witness_ConstructBuildsTheResetState :
    let s := fun p : List Byte => ({ State.reset with inputs := [.construct p] } : State)
    (legalConfig (s (List.replicate 3328 1)).cfg ∧
      (s (List.replicate 3328 1)).nextEvent = .construct (List.replicate 3328 1) ∧
      (List.replicate 3328 (1 : Byte)).length ≤ programMax (s (List.replicate 3328 1)).cfg) ∧
    (legalConfig (s []).cfg ∧ (s []).nextEvent = .construct [] ∧
      ([] : List Byte).length ≤ programMax (s []).cfg) :=
  ⟨⟨test_default_config_is_legal, rfl, by rw [List.length_replicate]; decide⟩, test_default_config_is_legal, rfl,
    by decide⟩
theorem witness_OverlongConstructLeavesNoMachine :
    let s : State := { State.reset with inputs := [.construct (List.replicate 3329 1)] }
    s.nextEvent = .construct (List.replicate 3329 1) ∧ programMax s.cfg < (List.replicate 3329 (1 : Byte)).length :=
  ⟨rfl, by rw [List.length_replicate]; decide⟩
/-- For ResetHasTheInvariant: a legal choice of the parameters and an address of its video region. -/
theorem witness_ResetHasTheInvariant : legalConfig otherConfig ∧ inVideo otherConfig 0x101 := by decide
/-- A state at the bounds of `sp`, `pc` and the return addresses, with time in the accumulator. -/
def atBounds : State :=
  { State.reset with
    sp := 32, pc := 0x10FE, stack := List.replicate 16 0x1000, acc := 59 / 3600, inputs := [.advance (1 / 61) 3] }

theorem atBounds_returns : ∀ ret ∈ List.replicate 16 (0x1000 : Word), ret.toNat ≤ memSize := by
  intro ret h
  rw [List.eq_of_mem_replicate h]
  decide

/-- The invariant holds in a state with a full call stack, at its bounds, and a step answers a next state from it. -/
theorem witness_StepKeepsTheInvariant : Machine.Inv atBounds ∧ (nextOf (step atBounds)).isSome = true :=
  ⟨{ legal := test_default_config_is_legal
     stack := ⟨rfl, by decide, by decide⟩
     acc := by constructor <;> norm_num [atBounds]
     latch := by rintro ⟨h, -⟩; cases h
     pc := ⟨by decide, atBounds_returns⟩
     mem := Memory.wf_nil }, by decide +kernel⟩
/-- Each component of the statement is changed by some instruction that it lists. -/
theorem witness_OnlyTheListedInstructionsWriteAComponent :
    let out := fun i s => nextOf (exec i s)
    (out (.ldI 5) State.reset).map State.I ≠ some State.reset.I ∧
    (out (.call 0x300) State.reset).map State.sp ≠ some State.reset.sp ∧
    (out (.storeRegs 0) { withRegs [(0, 1)] with I := 0x300 }).map State.mem ≠ some State.reset.mem ∧
    (out (.ldDTVx 1) (withRegs [(1, 9)])).map State.dt ≠ some State.reset.dt ∧
    (out (.ldVxK 1) State.reset).map State.waiting ≠ some State.reset.waiting ∧
    (out .cls { State.reset with dirty := false }).map State.dirty ≠ some false ∧
    (out (.jp 0x300) State.reset).map State.pc ≠ some State.reset.pc ∧
    (out (.skp 0) State.reset).map State.pc ≠ some State.reset.pc ∧
    (out (.addReg 1 2) (withRegs [(1, 0xFF), (2, 1)])).map (fun t => t.reg 15) ≠ some 0 ∧
    (out (.loadRegs 3) { State.reset with I := 0x050 }).map (fun t => t.reg 3) ≠ some 0 := by decide +kernel
/-- An instruction that sets `dirty`, a DRW that is stopped by its range check, and one that does not touch it. -/
theorem witness_NoInstructionReadsKeysAccumulatorOrDirty :
    (SetsDirty .cls State.reset ∧ ∃ t, exec .cls State.reset = .next t) ∧
    (let s : State := { State.reset with I := 0xFFF }
     (SetsDirty (.drw 0 0 1) s ∧ ¬SetsDirty (.drw 0 0 2) s) ∧ ∃ t, exec (.drw 0 0 2) s = .next t) ∧
    (¬SetsDirty .nop State.reset ∧ ∃ t, exec .nop State.reset = .next t) := by
  refine ⟨⟨.inl rfl, _, rfl⟩, ⟨⟨.inr ⟨0, 0, 1, rfl, by decide⟩, ?_⟩, _, rfl⟩, ?_, _, rfl⟩
  · rintro (h | ⟨x, y, n, h, hn⟩)
    · cases h
    · cases h; revert hn; decide
  · rintro (h | ⟨x, y, n, h, -⟩) <;> cases h
theorem witness_RandomByteReachesOnlyRnd :
    (∀ x nn, Instr.addImm 1 2 ≠ .rnd x nn) ∧ ∃ t, exec (.addImm 1 2) State.reset = .next t :=
  ⟨(by intro x nn h; cases h), _, rfl⟩

/-! Decoding clauses of the per-instruction statements: a word for each, with the operands at their largest. -/

/-- For NoOperationsChangeNothing, ClsZeroesTheVideoRegion, RetPopsPcOrUnderflows. -/
theorem witness_group0_words :
    (fieldG 0x0F00 = 0 ∧ fieldNN 0x0F00 = 0x00) ∧ (fieldG 0x0FE0 = 0 ∧ fieldNN 0x0FE0 = 0xE0) ∧
    (fieldG 0x0FEE = 0 ∧ fieldNN 0x0FEE = 0xEE) := by decide
/-- For JpSetsPc, CallPushesPcOrOverflows, ImmediateSkips, ImmediateLoadAndAdd, LdISetsTheIndex, JpV0AddsRegisterZero,
RndWritesAMaskedByte, DrwCompletesInsideTheVideoRegion. -/
theorem witness_group_words :
    fieldG 0x1FFF = 1 ∧ fieldG 0x2FFF = 2 ∧ fieldG 0x3FFF = 3 ∧ fieldG 0x4FFF = 4 ∧ fieldG 0x6FFF = 6 ∧
    fieldG 0x7FFF = 7 ∧ fieldG 0xAFFF = 0xA ∧ fieldG 0xBFFF = 0xB ∧ fieldG 0xCFFF = 0xC ∧ fieldG 0xDFFF = 0xD := by decide
/-- For RegisterSkips. -/
theorem witness_group5_9_words :
    (fieldG 0x5FF0 = 5 ∧ fieldN 0x5FF0 = 0) ∧ (fieldG 0x5FFF = 5 ∧ fieldN 0x5FFF ≠ 0) ∧
    (fieldG 0x9FF0 = 9 ∧ fieldN 0x9FF0 = 0) ∧ (fieldG 0x9FFF = 9 ∧ fieldN 0x9FFF ≠ 0) := by decide
/-- For RegisterCopyAndLogic, RegisterAddAndSubtract, Shifts. -/
theorem witness_group8_words :
    (fieldG 0x8FF0 = 8 ∧ fieldN 0x8FF0 = 0) ∧ fieldN 0x8FF1 = 1 ∧ fieldN 0x8FF2 = 2 ∧ fieldN 0x8FF3 = 3 ∧
    fieldN 0x8FF4 = 4 ∧ fieldN 0x8FF5 = 5 ∧ fieldN 0x8FF6 = 6 ∧ fieldN 0x8FF7 = 7 ∧
    (fieldG 0x8FFE = 8 ∧ fieldN 0x8FFE = 0xE) := by decide
/-- For UnsupportedInstructionsLatchNotImplemented. -/
theorem witness_groupE_words :
    (fieldG 0xEF9E = 0xE ∧ fieldNN 0xEF9E = 0x9E) ∧ (fieldG 0xEFA1 = 0xE ∧ fieldNN 0xEFA1 = 0xA1) := by decide
/-- For UnsupportedInstructionsLatchNotImplemented (STOP), NoOperationsChangeNothing, LdVxDtReadsTheTimer,
LdDtVxSetsTheTimer, LdVxKEntersTheKeyWait, IndexArithmetic, LdBStoresDecimalDigits, StoreRegistersToMemory,
LoadRegistersFromMemory. -/
theorem witness_groupF_words :
    fieldG 0xFF00 = 0xF ∧ fieldNN 0xFF00 = 0x00 ∧ fieldNN 0xFF07 = 0x07 ∧ fieldNN 0xFF0A = 0x0A ∧ fieldNN 0xFF15 = 0x15 ∧
    fieldNN 0xFF17 = 0x17 ∧ fieldNN 0xFF18 = 0x18 ∧ fieldNN 0xFF1E = 0x1E ∧ fieldNN 0xFF29 = 0x29 ∧
    fieldNN 0xFF33 = 0x33 ∧ fieldNN 0xFF55 = 0x55 ∧ fieldNN 0xFF65 = 0x65 := by decide

theorem witness_NoOperationsChangeNothing :
    legalConfig otherConfig ∧ fieldG 0xFF42 = 0xF ∧ fieldNN 0xFF42 ∈ otherConfig.toneNopNN := by decide
theorem witness_ClsZeroesTheVideoRegion :
    legalConfig State.reset.cfg ∧ State.reset.mem.wf State.reset.cfg := ⟨test_default_config_is_legal, Memory.wf_nil⟩
/-- The fullest and the emptiest stack that RET pops, and the empty one. -/
theorem witness_RetPopsPcOrUnderflows :
    (15 < State.reset.cfg.stackDepth ∧ (State.sp { State.reset with sp := 32 }).toNat = 2 * (15 + 1)) ∧
    (0 < State.reset.cfg.stackDepth ∧ (State.sp { State.reset with sp := 2 }).toNat = 2 * (0 + 1)) ∧
    State.reset.sp = 0 := by decide
/-- The emptiest and the fullest stack that CALL pushes on, and the full one. -/
theorem witness_CallPushesPcOrOverflows :
    let s := fun sp : Word => ({ State.reset with sp := sp } : State)
    legalConfig (s 0).cfg ∧ (StackInv (s 0) ∧ (s 0).sp.toNat = 2 * 0) ∧
    (StackInv (s 30) ∧ 15 < (s 30).cfg.stackDepth ∧ (s 30).sp.toNat = 2 * 15) ∧
    (StackInv (s 32) ∧ (s 32).sp.toNat = 2 * (s 32).cfg.stackDepth) :=
  ⟨test_default_config_is_legal, ⟨⟨rfl, by decide, by decide⟩, rfl⟩, ⟨⟨rfl, by decide, by decide⟩, by decide, rfl⟩,
    ⟨rfl, by decide, by decide⟩, rfl⟩
theorem witness_RetReturnsToTheInstructionAfterTheCall :
    legalConfig State.reset.cfg ∧ StackInv State.reset ∧ State.reset.sp.toNat < 2 * State.reset.cfg.stackDepth ∧
    ∃ t u : State, exec (.call 0x300) State.reset = .next t ∧ u.sp = t.sp ∧ u.stack = t.stack :=
  ⟨test_default_config_is_legal, ⟨rfl, by decide, by decide⟩, by decide, _, _, rfl, rfl, rfl⟩
/-- For ImmediateSkips and RegisterSkips: equal and different operands. -/
theorem witness_skips :
    (withRegs [(1, 0x42)]).reg 1 = 0x42 ∧ (withRegs [(1, 0x43)]).reg 1 ≠ 0x42 ∧
    State.reset.reg 1 = State.reset.reg 2 ∧ (withRegs [(1, 1)]).reg 1 ≠ (withRegs [(1, 1)]).reg 2 := by decide
/-- A carry and none, a borrow and none, at the boundary of each. -/
theorem witness_RegisterAddAndSubtract :
    let s := fun a b => withRegs [(1, a), (2, b)]
    ((s 0xFF 1).reg 1).toNat + ((s 0xFF 1).reg 2).toNat > 255 ∧
    ¬((s 0xFE 1).reg 1).toNat + ((s 0xFE 1).reg 2).toNat > 255 ∧
    ((s 5 5).reg 1).toNat ≥ ((s 5 5).reg 2).toNat ∧ ¬((s 4 5).reg 1).toNat ≥ ((s 4 5).reg 2).toNat ∧
    (1 : RegIdx) ≠ 15 := by decide
theorem witness_Shifts :
    let v := fun b => ((withRegs [(1, b)]).reg 1).toNat
    v 0x01 % 2 = 1 ∧ ¬v 0x80 % 2 = 1 ∧ v 0x80 ≥ 128 ∧ ¬v 0x7F ≥ 128 ∧ (1 : RegIdx) ≠ 15 := by decide
theorem witness_RndWritesAMaskedByte : (0x0A : Byte) &&& ~~~0x0F = 0 := by decide
theorem witness_LdVxDtReadsTheTimer :
    let s := ready 0xFFE 0xFF07 0 0
    Executes s 0 0 ∧ s.pc.toNat + 2 ≤ 4096 ∧ decode s.cfg s.fetchWord = some (.ldVxDT 15) :=
  ⟨ready_executes _ _ _, by decide, by decide⟩
theorem witness_IndexArithmetic :
    legalConfig (withRegs [(1, 15)]).cfg ∧ ((withRegs [(1, 15)]).reg 1).toNat < 16 ∧ 4 < 5 :=
  ⟨test_default_config_is_legal, by decide, by decide⟩
/-- The last range inside memory and the first outside it, for three digits. -/
theorem witness_LdBStoresDecimalDigits :
    State.reset.mem.wf State.reset.cfg ∧ (State.I { State.reset with I := 0xFFD }).toNat + 3 ≤ 4096 ∧
    4096 < (State.I { State.reset with I := 0xFFE }).toNat + 3 := ⟨Memory.wf_nil, by decide, by decide⟩
/-- For StoreRegistersToMemory and LoadRegistersFromMemory: the same for registers 0 to X, with X at both ends. -/
theorem witness_StoreAndLoadRegisters :
    State.reset.mem.wf State.reset.cfg ∧ (State.I { State.reset with I := 0xFFF }).toNat + (0 : RegIdx).val + 1 ≤ 4096 ∧
    (State.I { State.reset with I := 0xFF0 }).toNat + (15 : RegIdx).val + 1 ≤ 4096 ∧
    4096 < (State.I { State.reset with I := 0x1000 }).toNat + (0 : RegIdx).val + 1 ∧
    4096 < (State.I { State.reset with I := 0xFF1 }).toNat + (15 : RegIdx).val + 1 :=
  ⟨Memory.wf_nil, by decide, by decide, by decide, by decide⟩
theorem witness_LoadAfterStoreRestoresTheRegisters :
    let s : State := { withRegs [(0, 7)] with I := 0xFF0 }
    s.mem.wf s.cfg ∧ s.I.toNat + (15 : RegIdx).val + 1 ≤ 4096 ∧
    ∃ t u : State, exec (.storeRegs 15) s = .next t ∧ u.cfg = t.cfg ∧ u.mem = t.mem ∧ u.I = t.I :=
  ⟨Memory.wf_nil, by decide, _, _, rfl, rfl, rfl, rfl⟩
theorem witness_StoredBytesAreTheNextFetchedWord :
    let s : State := { withRegs [(0, 0x12), (1, 0x08)] with I := 0x208, pc := 0x208 }
    s.mem.wf s.cfg ∧ 1 ≤ (1 : RegIdx).val ∧ s.I = s.pc ∧ s.I.toNat + (1 : RegIdx).val + 1 ≤ 4096 ∧
    ∃ t, exec (.storeRegs 1) s = .next t := ⟨Memory.wf_nil, by decide, rfl, by decide, _, rfl⟩
theorem witness_PixelsAreDistinctVideoBits :
    pixelAddr defaultConfig 63 31 = 0xFFF ∧ pixelAddr defaultConfig 0 0 = 0xF00 ∧ pixelAddr otherConfig 63 31 = 0x200 := by
  decide
/-- No rows anywhere, the last range inside memory, the first outside it. -/
theorem witness_DrwCompletesInsideTheVideoRegion :
    legalConfig State.reset.cfg ∧ State.reset.mem.wf State.reset.cfg ∧ (0 : Fin 16) = 0 ∧ (State.I { State.reset with I := 0xFFE }).toNat + (2 : Fin 16).val ≤ 4096 ∧
    (2 : Fin 16) ≠ 0 ∧ 4096 < (State.I { State.reset with I := 0xFFF }).toNat + (2 : Fin 16).val :=
  ⟨test_default_config_is_legal, Memory.wf_nil, rfl, by decide, by decide, by decide⟩
/-- The sprite lies in the video region, the position in VF. -/
theorem witness_DrwAddsOneRowToTheShorterDraw :
    let s : State := { withRegs [(15, 9)] with I := 0xF00 }
    legalConfig s.cfg ∧ s.mem.wf s.cfg ∧ (15 : Fin 16).val = (14 : Fin 16).val + 1 ∧ s.I.toNat + (15 : Fin 16).val ≤ 4096 ∧
    ∃ t u, exec (.drw 15 15 14) s = .next t ∧ exec (.drw 15 15 15) s = .next u :=
  ⟨test_default_config_is_legal, Memory.wf_nil, by decide, by decide, _, _, rfl, rfl⟩
/-- Glyph 0 at its place: a covered pixel and one that is not. -/
theorem witness_DrwXorsTheCoveredPixels :
    let s : State := { State.reset with I := 0x050 }
    legalConfig s.cfg ∧ s.mem.wf s.cfg ∧ s.I.toNat + (5 : Fin 16).val ≤ 4096 ∧ (∀ r, r < (5 : Fin 16).val → ¬inVideo s.cfg (s.I.toNat + r)) ∧
    SpriteCovers s 0 1 (5 : Fin 16).val 3 0 ∧ ¬SpriteCovers s 0 1 (5 : Fin 16).val 63 31 := by
  refine ⟨test_default_config_is_legal, Memory.wf_nil, by decide, by decide, ⟨0, 3, by decide, by decide, by decide, by decide, by decide⟩, ?_⟩
  rintro ⟨r, c, hr, -, -, h, -⟩
  have h0 : (State.reg { State.reset with I := 0x050 } 1).toNat = 0 := by decide
  have hr' : r < 5 := hr
  rw [h0] at h
  omega
theorem witness_DrwTwiceRestoresMemory :
    let s : State := { State.reset with I := 0x050 }
    legalConfig s.cfg ∧ s.mem.wf s.cfg ∧ (0 : RegIdx) ≠ 15 ∧ (1 : RegIdx) ≠ 15 ∧ s.I.toNat + (5 : Fin 16).val ≤ 4096 ∧
    (∀ r, r < (5 : Fin 16).val → ¬inVideo s.cfg (s.I.toNat + r)) ∧
    ∃ t u, exec (.drw 0 1 5) s = .next t ∧ exec (.drw 0 1 5) t = .next u :=
  ⟨test_default_config_is_legal, Memory.wf_nil, by decide, by decide, by decide, by decide, _, _, rfl, rfl⟩

end Sys2Proof.Tests
end

section
/-! PROOFS. Jump and call (`41_jump_call.md`). -/

namespace Sys2Proof.Machine

/-- Group 1 has one instruction (R65, R91). -/
theorem decode_of_fieldG_eq_one (c : Config) {w : Word} (hg : fieldG w = 1) :
    decode c w = some (.jp (fieldNNN w)) := by
  simp only [decode, dispatch, hg]

theorem exec_jp (nnn : BitVec 12) (s : State) : exec (.jp nnn) s = .next (s.setPc (zextNNN nnn)) := rfl

/-- Settles O31: group 1 decodes to JP alone, and JP is the one update `setPc` with the zero-extended NNN. -/
theorem jpSetsPc : Obligations.JpSetsPc := by
  unfold Obligations.JpSetsPc
  constructor
  · exact fun c _ hg => decode_of_fieldG_eq_one c hg
  · intro nnn s
    have hpc : (s.setPc (zextNNN nnn)).pc.toNat = nnn.toNat := by rw [setPc_pc, zextNNN_toNat]
    exact ⟨s.setPc (zextNNN nnn), exec_jp nnn s, hpc, rfl⟩

end Sys2Proof.Machine
end

section
/-! PROOFS. The conditional skips (`42_skip.md`). -/

namespace Sys2Proof.Machine

theorem skipIf_changes_only_pc (s : State) (c : Bool) : s.skipIf c = { s with pc := (s.skipIf c).pc } := by
  cases c <;> rfl

/-- The form of R100 that all four skips share: an instruction whose effect is `skipIf` skips exactly when the condition
that its Boolean decides holds. -/
theorem skipsWhen_of_exec_eq_skipIf {i : Instr} {s : State} {c : Bool} {cond : Prop}
    (hexec : exec i s = .next (s.skipIf c)) (hc : c = true ↔ cond) : SkipsWhen i s cond := by
  refine ⟨s.skipIf c, hexec, fun h => ?_, fun h => ?_, skipIf_changes_only_pc s c⟩
  · rw [skipIf_pc, if_pos (hc.mpr h)]
    exact BitVec.toNat_add s.pc 2
  · rw [skipIf_pc, if_neg (mt hc.mp h)]

/-- Group 3 has one instruction (R65, R101). -/
theorem decode_of_fieldG_eq_three (c : Config) {w : Word} (hg : fieldG w = 3) :
    decode c w = some (.seImm (fieldX w) (fieldNN w)) := by
  simp only [decode, dispatch, hg]

/-- Group 4 has one instruction (R65, R102). -/
theorem decode_of_fieldG_eq_four (c : Config) {w : Word} (hg : fieldG w = 4) :
    decode c w = some (.sneImm (fieldX w) (fieldNN w)) := by
  simp only [decode, dispatch, hg]

theorem exec_seImm (x : RegIdx) (nn : Byte) (s : State) :
    exec (.seImm x nn) s = .next (s.skipIf (s.reg x == nn)) := rfl

theorem exec_sneImm (x : RegIdx) (nn : Byte) (s : State) :
    exec (.sneImm x nn) s = .next (s.skipIf (s.reg x != nn)) := rfl

/-- Settles O35: groups 3 and 4 decode to SE and SNE alone, and each is one `skipIf`, on equality and on difference. -/
theorem immediateSkips : Obligations.ImmediateSkips := by
  unfold Obligations.ImmediateSkips
  refine ⟨fun c _ hg => decode_of_fieldG_eq_three c hg, fun c _ hg => decode_of_fieldG_eq_four c hg,
    fun x nn s => ⟨?_, ?_⟩⟩
  · exact skipsWhen_of_exec_eq_skipIf (exec_seImm x nn s) beq_iff_eq
  · exact skipsWhen_of_exec_eq_skipIf (exec_sneImm x nn s) bne_iff_ne

end Sys2Proof.Machine
end

section
/-! PROOFS. Immediate load and add (`43_load_add_imm.md`). -/

namespace Sys2Proof.Machine

/-- The form that every instruction with a single register result shares: when its effect is one `setReg`, it writes that
register and nothing else. -/
theorem writesReg_of_exec_eq_setReg {i : Instr} {s : State} {r : RegIdx} {v : Byte}
    (hexec : exec i s = .next (s.setReg r v)) : WritesReg i s r v :=
  ⟨s.setReg r v, hexec, setReg_reg_same s r v, fun q hq => setReg_reg_ne s r q v hq, rfl⟩

/-- The machine's byte addition is the sum modulo 256 (R112). -/
theorem add8_eq_ofNat_mod (a b : Byte) : add8 a b = BitVec.ofNat 8 ((a.toNat + b.toNat) % 256) := by
  apply BitVec.eq_of_toNat_eq
  rw [add8, BitVec.toNat_ofNat, BitVec.toNat_ofNat]
  exact (Nat.mod_mod _ 256).symm

/-- Group 6 has one instruction (R65, R110). -/
theorem decode_of_fieldG_eq_six (c : Config) {w : Word} (hg : fieldG w = 6) :
    decode c w = some (.ldImm (fieldX w) (fieldNN w)) := by
  simp only [decode, dispatch, hg]

/-- Group 7 has one instruction (R65, R111). -/
theorem decode_of_fieldG_eq_seven (c : Config) {w : Word} (hg : fieldG w = 7) :
    decode c w = some (.addImm (fieldX w) (fieldNN w)) := by
  simp only [decode, dispatch, hg]

theorem exec_ldImm (x : RegIdx) (nn : Byte) (s : State) : exec (.ldImm x nn) s = .next (s.setReg x nn) := rfl

theorem exec_addImm (x : RegIdx) (nn : Byte) (s : State) :
    exec (.addImm x nn) s = .next (s.setReg x (add8 (s.reg x) nn)) := rfl

/-- Settles O37: groups 6 and 7 decode to LD and ADD alone, and each is one `setReg`, ADD's of the wrapping sum. -/
theorem immediateLoadAndAdd : Obligations.ImmediateLoadAndAdd := by
  unfold Obligations.ImmediateLoadAndAdd
  refine ⟨fun c _ hg => decode_of_fieldG_eq_six c hg, fun c _ hg => decode_of_fieldG_eq_seven c hg,
    fun x nn s => ⟨?_, ?_⟩⟩
  · exact writesReg_of_exec_eq_setReg (exec_ldImm x nn s)
  · rw [← add8_eq_ofNat_mod]
    exact writesReg_of_exec_eq_setReg (exec_addImm x nn s)

end Sys2Proof.Machine
end

section
/-! PROOFS. Register copy and logic (`44_alu.md`). -/

namespace Sys2Proof.Machine

/-- Group 8 is decoded by its nibble `N` (R65). -/
theorem decode_of_fieldG_eq_eight (c : Config) {w : Word} (hg : fieldG w = 8) : decode c w = dispatch8 w := by
  simp only [decode, dispatch, hg]

theorem dispatch8_of_fieldN_eq_zero {w : Word} (hn : fieldN w = 0) :
    dispatch8 w = some (.ldReg (fieldX w) (fieldY w)) := by
  simp [dispatch8, hn]

theorem dispatch8_of_fieldN_eq_one {w : Word} (hn : fieldN w = 1) :
    dispatch8 w = some (.orReg (fieldX w) (fieldY w)) := by
  simp [dispatch8, hn]

theorem dispatch8_of_fieldN_eq_two {w : Word} (hn : fieldN w = 2) :
    dispatch8 w = some (.andReg (fieldX w) (fieldY w)) := by
  simp [dispatch8, hn]

theorem dispatch8_of_fieldN_eq_three {w : Word} (hn : fieldN w = 3) :
    dispatch8 w = some (.xorReg (fieldX w) (fieldY w)) := by
  simp [dispatch8, hn]

theorem exec_ldReg (x y : RegIdx) (s : State) : exec (.ldReg x y) s = .next (s.setReg x (s.reg y)) := rfl

theorem exec_orReg (x y : RegIdx) (s : State) :
    exec (.orReg x y) s = .next (s.setReg x (s.reg x ||| s.reg y)) := rfl

theorem exec_andReg (x y : RegIdx) (s : State) :
    exec (.andReg x y) s = .next (s.setReg x (s.reg x &&& s.reg y)) := rfl

theorem exec_xorReg (x y : RegIdx) (s : State) :
    exec (.xorReg x y) s = .next (s.setReg x (s.reg x ^^^ s.reg y)) := rfl

/-- Settles O38: in group 8 the nibbles 0 to 3 decode to LD, OR, AND and XOR, and each is one `setReg`, of the copy or of
the bitwise operation, so VF keeps its value unless it is `X`. -/
theorem registerCopyAndLogic : Obligations.RegisterCopyAndLogic := by
  unfold Obligations.RegisterCopyAndLogic
  constructor
  · intro c w hg
    rw [decode_of_fieldG_eq_eight c hg]
    exact ⟨dispatch8_of_fieldN_eq_zero, dispatch8_of_fieldN_eq_one, dispatch8_of_fieldN_eq_two,
      dispatch8_of_fieldN_eq_three⟩
  · intro x y s
    refine ⟨writesReg_of_exec_eq_setReg (exec_ldReg x y s), ⟨s.reg x ||| s.reg y, ?_, ?_⟩,
      ⟨s.reg x &&& s.reg y, ?_, ?_⟩, ⟨s.reg x ^^^ s.reg y, ?_, ?_⟩⟩
    · exact writesReg_of_exec_eq_setReg (exec_orReg x y s)
    · exact fun _ => BitVec.getLsbD_or
    · exact writesReg_of_exec_eq_setReg (exec_andReg x y s)
    · exact fun _ => BitVec.getLsbD_and
    · exact writesReg_of_exec_eq_setReg (exec_xorReg x y s)
    · exact fun _ => BitVec.getLsbD_xor

end Sys2Proof.Machine
end

section
/-! PROOFS. Index load and random byte (`45_index_random.md`). -/

namespace Sys2Proof.Machine

/-- A masked value has no bit outside its mask. -/
theorem mask_and_and_not_mask {n : Nat} (m b : BitVec n) : (m &&& b) &&& ~~~m = 0 := by
  rw [BitVec.and_comm m b, BitVec.and_assoc, BitVec.and_not_self]
  exact BitVec.and_zero

/-- The converse: masking leaves a value with no bit outside the mask as it is. -/
theorem mask_and_eq_self {n : Nat} {m v : BitVec n} (h : v &&& ~~~m = 0) : m &&& v = v :=
  calc m &&& v
    _ = (v &&& m) ||| 0 := by rw [BitVec.and_comm]; exact BitVec.or_zero.symm
    _ = (v &&& m) ||| (v &&& ~~~m) := by rw [h]
    _ = v &&& (m ||| ~~~m) := BitVec.and_or_distrib_left.symm
    _ = v := by rw [BitVec.or_not_self, BitVec.and_allOnes]

/-- Group A has one instruction (R65, R130). -/
theorem decode_of_fieldG_eq_ten (c : Config) {w : Word} (hg : fieldG w = 0xA) :
    decode c w = some (.ldI (fieldNNN w)) := by
  simp only [decode, dispatch, hg]

/-- Group C has one instruction (R65, R131). -/
theorem decode_of_fieldG_eq_twelve (c : Config) {w : Word} (hg : fieldG w = 0xC) :
    decode c w = some (.rnd (fieldX w) (fieldNN w)) := by
  simp only [decode, dispatch, hg]

theorem exec_ldI (nnn : BitVec 12) (s : State) : exec (.ldI nnn) s = .next (s.setI (zextNNN nnn)) := rfl

theorem exec_rnd (x : RegIdx) (nn : Byte) (s : State) :
    exec (.rnd x nn) s = .next (s.setReg x (nn &&& s.rnd)) := rfl

/-- Settles O41: group A decodes to LD I alone, and LD I is the one update `setI` with the zero-extended NNN. -/
theorem ldISetsTheIndex : Obligations.LdISetsTheIndex := by
  unfold Obligations.LdISetsTheIndex
  constructor
  · exact fun c _ hg => decode_of_fieldG_eq_ten c hg
  · intro nnn s
    have hI : (s.setI (zextNNN nnn)).I.toNat = nnn.toNat := by rw [setI_I, zextNNN_toNat]
    exact ⟨s.setI (zextNNN nnn), exec_ldI nnn s, hI, rfl⟩

/-- Settles O42: group C decodes to RND alone, and RND is one `setReg` of the masked byte. A value inside the mask is its
own masked byte, so the draw that gives it is the value itself. -/
theorem rndWritesAMaskedByte : Obligations.RndWritesAMaskedByte := by
  unfold Obligations.RndWritesAMaskedByte
  refine ⟨fun c _ hg => decode_of_fieldG_eq_twelve c hg, fun x nn s => ⟨?_, ?_, fun v hv => ⟨v, ?_⟩⟩⟩
  · exact writesReg_of_exec_eq_setReg (exec_rnd x nn s)
  · exact mask_and_and_not_mask nn s.rnd
  · have hexec := exec_rnd x nn { s with rnd := v }
    rw [mask_and_eq_self hv] at hexec
    exact writesReg_of_exec_eq_setReg hexec

end Sys2Proof.Machine
end

section
/-! PROOFS. Group 0xF and one executed `Advance` (`48_group_f.md`). -/

namespace Sys2Proof.Machine

/-- Group F is decoded by its sub-opcode `NN` (R65). -/
theorem decode_of_fieldG_eq_fifteen (c : Config) {w : Word} (hg : fieldG w = 0xF) :
    decode c w = dispatchF c.toneNopNN w := by
  simp only [decode, dispatch, hg]

theorem dispatchF_of_fieldNN_eq_07 (toneNop : List Byte) {w : Word} (hnn : fieldNN w = 0x07) :
    dispatchF toneNop w = some (.ldVxDT (fieldX w)) := by
  simp [dispatchF, hnn]

theorem exec_ldVxDT (x : RegIdx) (s : State) : exec (.ldVxDT x) s = .next (s.setReg x s.dt) := rfl

/-- The state that an `Advance` of `e` seconds executes its instruction in: the event taken, then the timer step, then
the fetch (R195). -/
def advancedTo (s : State) (e : Rat) (b : Byte) : State := ((s.eventTaken.timerStep e).latch b).fetched

theorem advancedTo_cfg (s : State) (e : Rat) (b : Byte) : (advancedTo s e b).cfg = s.cfg := by
  simp [advancedTo]

/-- The timer step leaves the bytes at `pc` alone, so the word executed is the one the state before it shows. -/
theorem advancedTo_curWord (s : State) (e : Rat) (b : Byte) : (advancedTo s e b).curWord = s.fetchWord := by
  simp [advancedTo, State.fetchWord]

/-- The timer step runs before the instruction, which therefore sees the timer that step left (R156). -/
theorem advancedTo_dt (s : State) (e : Rat) (b : Byte) : (advancedTo s e b).dt = (s.timerStep e).dt := by
  simp [advancedTo]

/-- An `Advance` that fetches an instruction is that instruction, executed after the timer step and the fetch (R193). -/
theorem step_eq_exec_advancedTo {s : State} {e : Rat} {b : Byte} {i : Instr} (h : Executes s e b)
    (hpc : s.pc.toNat + 2 ≤ memSize) (hi : decode s.cfg s.fetchWord = some i) :
    step s = afterExec (exec i (advancedTo s e b)) := by
  have hfetch : (s.eventTaken.timerStep e).pc.toNat + 2 ≤ memSize := by simpa using hpc
  have hdecode : decode (advancedTo s e b).cfg (advancedTo s e b).curWord = some i := by
    rw [advancedTo_cfg, advancedTo_curWord, hi]
  calc step s
    _ = fetchAndExec b (s.eventTaken.timerStep e) := step_of_executes s e b h
    _ = dispatchAndExec (advancedTo s e b) := fetchAndExec_inRange _ b hfetch
    _ = afterExec (exec i (advancedTo s e b)) := dispatchAndExec_some _ hdecode

/-- Settles O43: `NN` = 07 decodes to LD Vx,DT, which is one `setReg` of the timer; in an `Advance` it executes where the
timer step has already run. -/
theorem ldVxDtReadsTheTimer : Obligations.LdVxDtReadsTheTimer := by
  unfold Obligations.LdVxDtReadsTheTimer
  refine ⟨fun c w hg hnn => ?_, fun x s => ?_, fun x s e b h hpc hi => ?_⟩
  · rw [decode_of_fieldG_eq_fifteen c hg, dispatchF_of_fieldNN_eq_07 _ hnn]
  · exact writesReg_of_exec_eq_setReg (exec_ldVxDT x s)
  · have hstep : step s = .next ((advancedTo s e b).setReg x (advancedTo s e b).dt).report := by
      rw [step_eq_exec_advancedTo h hpc hi, exec_ldVxDT, afterExec_next]
    refine ⟨_, hstep, ?_, ?_⟩
    · rw [report_reg, setReg_reg_same, advancedTo_dt]
    · rw [report_dt, setReg_dt, advancedTo_dt]

end Sys2Proof.Machine
end

section
/-! PROOFS. `SetKeyState`, `ReadFrame` and the key wait (`60_exceptions.md`). -/

namespace Sys2Proof.Machine

/-- A step whose event is an `Advance` is that `Advance`, run where the event is taken (R203). -/
theorem step_of_advance {s : State} {e : Rat} {b : Byte} (h : s.nextEvent = .advance e b) :
    step s = advance e b s.eventTaken := by
  rw [step, h, runEvent]

theorem step_of_setKeyState {s : State} {key : Int} {pressed : Bool} (h : s.nextEvent = .setKeyState key pressed) :
    step s = setKeyState key pressed s.eventTaken := by
  rw [step, h, runEvent]

theorem step_of_readFrame {s : State} (h : s.nextEvent = .readFrame) : step s = readFrame s.eventTaken := by
  rw [step, h, runEvent]

/-- Whichever of its three answers it gives a waiting machine, `Advance` leaves it waiting (R194). -/
theorem advance_keeps_waiting {s t : State} {e : Rat} {b : Byte} (hw : s.waiting = true)
    (h : advance e b s = .next t) : t.waiting = true := by
  rcases lt_or_ge e 0 with hneg | hlegal
  · rw [advance_refused s e b hneg] at h
    cases h
    exact hw
  · cases hf : s.fault with
    | some r =>
      rw [advance_latched s e b hlegal hf] at h
      cases h
      exact hw
    | none =>
      rw [advance_waiting s e b hlegal hf hw] at h
      cases h
      exact hw

/-- A press edge while waiting (R197): the machine waits, the key is pressed, and it was not recorded as pressed. -/
def PressEdge (s : State) (k : Fin 16) (pressed : Bool) : Prop :=
  s.waiting = true ∧ pressed = true ∧ s.keys.get k = false

theorem eventTaken_pressEdge {s : State} {k : Fin 16} {pressed : Bool} :
    PressEdge s.eventTaken k pressed ↔ PressEdge s k pressed := by
  simp only [PressEdge, eventTaken_waiting, eventTaken_keys]

theorem keyEvent_of_pressEdge {s : State} {k : Fin 16} {pressed : Bool} (h : PressEdge s k pressed) :
    s.keyEvent k pressed = { s with
      x := s.x.set s.keydest (BitVec.ofNat 8 k.val), waiting := false, keys := s.keys.set k pressed } := by
  unfold PressEdge at h
  simp only [State.keyEvent, if_pos h]
  rfl

theorem keyEvent_of_not_pressEdge {s : State} {k : Fin 16} {pressed : Bool} (h : ¬PressEdge s k pressed) :
    s.keyEvent k pressed = { s with keys := s.keys.set k pressed } := by
  unfold PressEdge at h
  simp only [State.keyEvent, if_neg h]

/-- An identifier outside 0 to 15 is answered InvalidKey (R185). -/
theorem setKeyState_of_invalid {key : Int} (h : key < 0 ∨ key > 15) (pressed : Bool) (s : State) :
    setKeyState key pressed s = .next (s.answer .invalidKey) := by
  rw [setKeyState, if_pos h]

theorem setKeyState_of_valid (k : Fin 16) (pressed : Bool) (s : State) :
    setKeyState (k.val : Int) pressed s = .next ((s.keyEvent k pressed).answer .ok) := by
  have hvalid : ¬((k.val : Int) < 0 ∨ (k.val : Int) > 15) := by omega
  rw [setKeyState, if_neg hvalid, Int.toNat_natCast, Fin.ofNat_val_eq_self]

/-- Settles O14: while waiting, `Advance` ends in one of three answers that all keep the wait; `SetKeyState` of a valid
key is `keyEvent`, which wakes on a press edge and otherwise only records the level. -/
theorem setKeyStateRecordsAndWakes : Obligations.SetKeyStateRecordsAndWakes := by
  unfold Obligations.SetKeyStateRecordsAndWakes
  refine ⟨fun s t e b hev hw hstep => ?_, fun s key pressed hev => ⟨fun k hk => ⟨fun hedge => ?_, fun hno => ?_⟩,
    fun hinvalid => ?_⟩⟩
  · rw [step_of_advance hev] at hstep
    exact advance_keeps_waiting (by rw [eventTaken_waiting, hw]) hstep
  · subst hk
    rw [step_of_setKeyState hev, setKeyState_of_valid, keyEvent_of_pressEdge (eventTaken_pressEdge.2 hedge)]
    simp only [eventTaken_x, eventTaken_keydest, eventTaken_keys]
    rfl
  · subst hk
    rw [step_of_setKeyState hev, setKeyState_of_valid, keyEvent_of_not_pressEdge (mt eventTaken_pressEdge.1 hno),
      eventTaken_keys]
    rfl
  · rw [step_of_setKeyState hev, setKeyState_of_invalid hinvalid]
    rfl

/-- Without a latched fault `Advance` answers ok (R195). -/
theorem report_of_unfaulted {s : State} (hf : s.fault = none) : s.report = s.answer .ok :=
  calc s.report
    _ = s.answer (advanceAnswer s.fault) := rfl
    _ = s.answer .ok := by rw [hf, advanceAnswer]

/-- Settles O10: with a legal `elapsed`, no fault and the wait on, `Advance` is the timer step and the answer ok. -/
theorem waitingAdvanceIsItsTimerStep : Obligations.WaitingAdvanceIsItsTimerStep := by
  unfold Obligations.WaitingAdvanceIsItsTimerStep
  intro s e b he hev hf hw
  have hf' : s.eventTaken.fault = none := by rw [eventTaken_fault, hf]
  have hw' : s.eventTaken.waiting = true := by rw [eventTaken_waiting, hw]
  rw [step_of_advance hev, advance_waiting _ e b he hf' hw', report_of_unfaulted (s := s.eventTaken.timerStep e) hf',
    ← eventTaken_dt s, ← eventTaken_acc s]
  rfl

theorem length_frame (s : State) : s.frame.length = 256 := Memory.length_readBytes _ _ _

theorem getD_frame (s : State) {k : Nat} (hk : k < 256) : s.frame.getD k 0 = s.byte (s.cfg.videoBase + k) :=
  Memory.getD_readBytes _ hk

theorem eventTaken_frame (s : State) : s.eventTaken.frame = s.frame := by
  rw [State.frame, eventTaken_mem, eventTaken_cfg, State.frame]

/-- Settles O16: the bytes answered are `State.frame`, the 256 reads from `VIDEO_BASE` on. -/
theorem readFrameReportsTheVideoRegion : Obligations.ReadFrameReportsTheVideoRegion := by
  unfold Obligations.ReadFrameReportsTheVideoRegion
  intro s hev
  refine ⟨s.frame, ?_, length_frame s, fun k hk => getD_frame s hk⟩
  rw [step_of_readFrame hev, readFrame, eventTaken_frame, eventTaken_dirty]
  rfl

end Sys2Proof.Machine
end

section
/-! PROOFS. The decoded instruction of an `Advance` and the program counter (`60_exceptions.md`). -/

namespace Sys2Proof.Machine

theorem advancedTo_pc (s : State) (e : Rat) (b : Byte) : (advancedTo s e b).pc = s.pc + 2 := by
  simp [advancedTo]

theorem advancedTo_curAddr (s : State) (e : Rat) (b : Byte) : (advancedTo s e b).curAddr = s.pc := by
  simp [advancedTo]

/-- The fetch records the address, the word and the random byte and advances `pc`; all else is the timer step's. -/
theorem advancedTo_eq (s : State) (e : Rat) (b : Byte) :
    advancedTo s e b = { s.eventTaken.timerStep e with
      pc := s.pc + 2, curAddr := s.pc, curWord := s.fetchWord, rnd := b } := by
  rw [← advancedTo_pc s e b, ← advancedTo_curAddr s e b, ← advancedTo_curWord s e b]
  rfl

/-- `t`, reached from `s` by an instruction, has the same `pc`, or a fault is latched in it. -/
def KeepsPcOrFaults (s t : State) : Prop := t.pc = s.pc ∨ t.fault ≠ none

theorem raiseExec_keepsPcOrFaults (s : State) (c : Cause) (bad : Option Nat) :
    KeepsPcOrFaults s (s.raiseExec c bad) := .inr (Option.some_ne_none _)

/-- The range check adds only a latched fault to what the checked operation does. -/
theorem checked_keepsPcOrFaults (a n : Nat) {s t : State} (ht : t.pc = s.pc) :
    KeepsPcOrFaults s (s.checked a n t) := by
  rcases checked_cases s a n t with h | h
  · rw [h]
    exact .inl ht
  · rw [h]
    exact raiseExec_keepsPcOrFaults s _ _

/-- Only the control transfers move `pc` by themselves: DRW and the three memory transfers of group F go through the range
check, SKP, SKNP and STOP raise NotImplemented, and the others have no access to `pc` (R90, R193). -/
theorem exec_keepsPcOrFaults {i : Instr} (hi : isControl i = false) (s : State) :
    ∃ t, exec i s = .next t ∧ KeepsPcOrFaults s t := by
  cases i with
  | jp | call | jpV0 | ret | seImm | sneImm | seReg | sneReg => cases hi
  | skp | sknp | stop => exact ⟨_, rfl, raiseExec_keepsPcOrFaults s _ _⟩
  | ldB | storeRegs | loadRegs => exact ⟨_, rfl, checked_keepsPcOrFaults _ _ (by rfl)⟩
  | drw x y n =>
    refine ⟨_, rfl, ?_⟩
    split
    · exact .inl rfl
    · exact checked_keepsPcOrFaults _ _ (by rw [setDirty_pc, setReg_pc, setMem_pc])
  | cls => exact ⟨_, rfl, .inl (by rw [setDirty_pc, setMem_pc])⟩
  | _ => exact ⟨_, rfl, .inl rfl⟩

/-- Settles O6: the step is the decoded instruction in the state after the fetch, where `pc` is already 2 more; an
instruction that is no control transfer and does not fault leaves it there. -/
theorem stepRunsTheDecodedInstruction : Obligations.StepRunsTheDecodedInstruction := by
  unfold Obligations.StepRunsTheDecodedInstruction
  intro s e b i h hpc hi
  have hstep : step s = afterExec (exec i (advancedTo s e b)) := step_eq_exec_advancedTo h hpc hi
  refine ⟨hstep, advancedTo_eq s e b, fun t ht hf hc => ?_⟩
  obtain ⟨u, hu, hkeeps⟩ := exec_keepsPcOrFaults hc (advancedTo s e b)
  rw [hstep, hu, afterExec_next] at ht
  cases ht
  rcases hkeeps with hsame | hfault
  · rw [report_pc, hsame, advancedTo_pc]
  · exact absurd hf hfault

end Sys2Proof.Machine
end

section
/-! PROOFS. The decoder, group by group (`30_encoding.md` R65). -/

namespace Sys2Proof.Machine

theorem decode_of_fieldG_eq_zero (c : Config) {w : Word} (hg : fieldG w = 0) : decode c w = dispatch0 w := by
  simp only [decode, dispatch, hg]

theorem decode_of_fieldG_eq_two (c : Config) {w : Word} (hg : fieldG w = 2) :
    decode c w = some (.call (fieldNNN w)) := by
  simp only [decode, dispatch, hg]

theorem decode_of_fieldG_eq_five (c : Config) {w : Word} (hg : fieldG w = 5) :
    decode c w = if fieldN w = 0 then some (.seReg (fieldX w) (fieldY w)) else none := by
  simp only [decode, dispatch, hg]

theorem decode_of_fieldG_eq_nine (c : Config) {w : Word} (hg : fieldG w = 9) :
    decode c w = if fieldN w = 0 then some (.sneReg (fieldX w) (fieldY w)) else none := by
  simp only [decode, dispatch, hg]

theorem decode_of_fieldG_eq_eleven (c : Config) {w : Word} (hg : fieldG w = 0xB) :
    decode c w = some (.jpV0 (fieldNNN w)) := by
  simp only [decode, dispatch, hg]

theorem decode_of_fieldG_eq_thirteen (c : Config) {w : Word} (hg : fieldG w = 0xD) :
    decode c w = some (.drw (fieldX w) (fieldY w) (fieldN w)) := by
  simp only [decode, dispatch, hg]

theorem decode_of_fieldG_eq_fourteen (c : Config) {w : Word} (hg : fieldG w = 0xE) : decode c w = dispatchE w := by
  simp only [decode, dispatch, hg]

theorem dispatch8_of_fieldN_eq_four {w : Word} (hn : fieldN w = 4) :
    dispatch8 w = some (.addReg (fieldX w) (fieldY w)) := by
  simp [dispatch8, hn]

theorem dispatch8_of_fieldN_eq_five {w : Word} (hn : fieldN w = 5) :
    dispatch8 w = some (.subReg (fieldX w) (fieldY w)) := by
  simp [dispatch8, hn]

theorem dispatch8_of_fieldN_eq_six {w : Word} (hn : fieldN w = 6) : dispatch8 w = some (.shr (fieldX w)) := by
  simp [dispatch8, hn]

theorem dispatch8_of_fieldN_eq_seven {w : Word} (hn : fieldN w = 7) :
    dispatch8 w = some (.subnReg (fieldX w) (fieldY w)) := by
  simp [dispatch8, hn]

theorem dispatch8_of_fieldN_eq_fourteen {w : Word} (hn : fieldN w = 0xE) :
    dispatch8 w = some (.shl (fieldX w)) := by
  simp [dispatch8, hn]

/-- A sub-opcode of group F that the table does not fix is a setter exactly when `TONE_NOP_NN` has it (R65, R67). -/
theorem dispatchF_of_not_fixed {toneNop : List Byte} {w : Word} (h : fieldNN w ∉ fixedGroupF) :
    dispatchF toneNop w = if toneNop.contains (fieldNN w) then some (toneSetter (fieldNN w)) else none := by
  simp [fixedGroupF] at h
  simp [dispatchF, h]

theorem toneSetter_17 : toneSetter 0x17 = .pitch := rfl

theorem toneSetter_18 : toneSetter 0x18 = .tone := rfl

theorem toneSetter_of_ne {nn : Byte} (h17 : nn ≠ 0x17) (h18 : nn ≠ 0x18) : toneSetter nn = .toneOther nn := by
  rw [toneSetter, if_neg h17, if_neg h18]

theorem toneSetter_eq_pitch_iff (nn : Byte) : toneSetter nn = .pitch ↔ nn = 0x17 := by
  constructor
  · intro h
    unfold toneSetter at h
    split_ifs at h with h17
    exact h17
  · rintro rfl
    exact toneSetter_17

theorem toneSetter_eq_tone_iff (nn : Byte) : toneSetter nn = .tone ↔ nn = 0x18 := by
  constructor
  · intro h
    unfold toneSetter at h
    split_ifs at h with _ h18
    exact h18
  · rintro rfl
    exact toneSetter_18

end Sys2Proof.Machine
end

section
/-! PROOFS. Decoding read through the opcode table (`30_encoding.md` R64): a word is the instruction whose row it selects,
with its own fields as operands. -/

namespace Sys2Proof.Machine

/-- `w` selects the row of `i` in the opcode table. -/
def SelectsRow (w : Word) (i : Instr) : Prop := w &&& (opcodeRow i).mask = (opcodeRow i).pattern

/-- The instruction of the same row as `i` whose operands are the fields of `w` (R61, R62). -/
def readFrom (w : Word) (i : Instr) : Instr :=
  match i with
  | .jp _ => .jp (fieldNNN w)
  | .call _ => .call (fieldNNN w)
  | .seImm _ _ => .seImm (fieldX w) (fieldNN w)
  | .sneImm _ _ => .sneImm (fieldX w) (fieldNN w)
  | .seReg _ _ => .seReg (fieldX w) (fieldY w)
  | .ldImm _ _ => .ldImm (fieldX w) (fieldNN w)
  | .addImm _ _ => .addImm (fieldX w) (fieldNN w)
  | .ldReg _ _ => .ldReg (fieldX w) (fieldY w)
  | .orReg _ _ => .orReg (fieldX w) (fieldY w)
  | .andReg _ _ => .andReg (fieldX w) (fieldY w)
  | .xorReg _ _ => .xorReg (fieldX w) (fieldY w)
  | .addReg _ _ => .addReg (fieldX w) (fieldY w)
  | .subReg _ _ => .subReg (fieldX w) (fieldY w)
  | .shr _ => .shr (fieldX w)
  | .subnReg _ _ => .subnReg (fieldX w) (fieldY w)
  | .shl _ => .shl (fieldX w)
  | .sneReg _ _ => .sneReg (fieldX w) (fieldY w)
  | .ldI _ => .ldI (fieldNNN w)
  | .jpV0 _ => .jpV0 (fieldNNN w)
  | .rnd _ _ => .rnd (fieldX w) (fieldNN w)
  | .drw _ _ _ => .drw (fieldX w) (fieldY w) (fieldN w)
  | .skp _ => .skp (fieldX w)
  | .sknp _ => .sknp (fieldX w)
  | .ldVxDT _ => .ldVxDT (fieldX w)
  | .ldVxK _ => .ldVxK (fieldX w)
  | .ldDTVx _ => .ldDTVx (fieldX w)
  | .addI _ => .addI (fieldX w)
  | .ldF _ => .ldF (fieldX w)
  | .ldB _ => .ldB (fieldX w)
  | .storeRegs _ => .storeRegs (fieldX w)
  | .loadRegs _ => .loadRegs (fieldX w)
  | .nop => .nop
  | .cls => .cls
  | .ret => .ret
  | .stop => .stop
  | .pitch => .pitch
  | .tone => .tone
  | .toneOther nn => .toneOther nn

/-- Other operands leave the row as it is. -/
theorem opcodeRow_readFrom (w : Word) (i : Instr) : opcodeRow (readFrom w i) = opcodeRow i := by cases i <;> rfl

/-! The masks, read as conditions on the fields. -/

theorem fieldG_of_mask_F000 {w p : Word} (h : w &&& 0xF000 = p) : fieldG w = p.toNat / 0x1000 := by
  rw [← h, mask_F000]; omega

theorem fields_of_mask_F0FF {w p : Word} (h : w &&& 0xF0FF = p) :
    fieldG w = p.toNat / 0x1000 ∧ fieldNN w = BitVec.ofNat 8 p.toNat := by
  have hnn := (fieldNN w).isLt
  rw [← h, mask_F0FF]
  refine ⟨by omega, BitVec.eq_of_toNat_eq ?_⟩
  rw [BitVec.toNat_ofNat]; omega

theorem fields_of_mask_F00F {w p : Word} (h : w &&& 0xF00F = p) :
    fieldG w = p.toNat / 0x1000 ∧ (fieldN w).val = p.toNat % 16 := by
  rw [← h, mask_F00F]; omega

theorem mask_F0FF_of_fields {w p : Word} (h : fieldG w * 0x1000 + (fieldNN w).toNat = p.toNat) : w &&& 0xF0FF = p :=
  BitVec.eq_of_toNat_eq ((mask_F0FF w).trans h)

theorem mask_F00F_of_fields {w p : Word} (h : fieldG w * 0x1000 + (fieldN w).val = p.toNat) : w &&& 0xF00F = p :=
  BitVec.eq_of_toNat_eq ((mask_F00F w).trans h)

theorem toneOther_row_toNat (nn : Byte) : (opcodeRow (.toneOther nn)).pattern.toNat = 0xF000 + nn.toNat := by
  have := nn.isLt
  simp only [opcodeRow, BitVec.toNat_ofNat]; omega

/-- A further setter's row fixes group F and the setter's own sub-opcode. -/
theorem fields_of_selectsRow_toneOther {w : Word} {nn : Byte} (h : SelectsRow w (.toneOther nn)) :
    fieldG w = 0xF ∧ fieldNN w = nn := by
  have hlt := nn.isLt
  obtain ⟨hg, hnn⟩ := fields_of_mask_F0FF (p := (opcodeRow (.toneOther nn)).pattern) h
  rw [toneOther_row_toNat] at hg hnn
  refine ⟨by omega, hnn.trans (BitVec.eq_of_toNat_eq ?_)⟩
  rw [BitVec.toNat_ofNat]; omega

/-- COMPLETE: a word that selects the row of an instruction of the machine decodes to that row's instruction. -/
theorem decode_of_selectsRow {c : Config} {w : Word} {i : Instr} (hwf : i.wf c = true) (h : SelectsRow w i) :
    decode c w = some (readFrom w i) := by
  cases i with
  | jp | call | seImm | sneImm | ldImm | addImm | ldI | jpV0 | rnd | drw =>
    have hg := fieldG_of_mask_F000 h
    simp [opcodeRow] at hg
    simp only [decode, dispatch, hg, readFrom]
  | seReg | sneReg | ldReg | orReg | andReg | xorReg | addReg | subReg | subnReg | shr | shl =>
    obtain ⟨hg, hn⟩ := fields_of_mask_F00F h
    simp [opcodeRow] at hg hn
    simp [decode, dispatch, hg, dispatch8, hn, readFrom]
  | nop | cls | ret | skp | sknp =>
    obtain ⟨hg, hnn⟩ := fields_of_mask_F0FF h
    simp [opcodeRow] at hg hnn
    simp [decode, dispatch, hg, dispatch0, dispatchE, hnn, readFrom]
  | stop | ldVxDT | ldVxK | ldDTVx | addI | ldF | ldB | storeRegs | loadRegs =>
    obtain ⟨hg, hnn⟩ := fields_of_mask_F0FF h
    simp [opcodeRow] at hg hnn
    simp [decode, dispatch, hg, dispatchF, hnn, readFrom]
  | pitch | tone =>
    obtain ⟨hg, hnn⟩ := fields_of_mask_F0FF h
    simp [opcodeRow] at hg hnn
    simp [Instr.wf, Instr.wfIn] at hwf
    simp [decode, dispatch, hg, dispatchF, hnn, hwf, toneSetter, readFrom]
  | toneOther nn =>
    obtain ⟨hg, hnn⟩ := fields_of_selectsRow_toneOther h
    simp only [Instr.wf, Instr.wfIn, Bool.and_eq_true, bne_iff_ne, Bool.not_eq_true'] at hwf
    obtain ⟨⟨⟨hmem, h17⟩, h18⟩, hfixed⟩ := hwf
    have hnot : fieldNN w ∉ fixedGroupF := by simpa [hnn] using hfixed
    rw [decode_of_fieldG_eq_fifteen c hg, dispatchF_of_not_fixed hnot, hnn, if_pos hmem, toneSetter_of_ne h17 h18]
    rfl

/-- What the decoder answers: an instruction of the machine, whose row `w` selects and whose operands are the fields. -/
structure ReadAs (c : Config) (w : Word) (i : Instr) : Prop where
  wf : i.wf c = true
  row : SelectsRow w i
  operands : readFrom w i = i

theorem dispatch0_readAs {c : Config} {w : Word} {i : Instr} (hg : fieldG w = 0) (h : dispatch0 w = some i) :
    ReadAs c w i := by
  unfold dispatch0 at h
  split_ifs at h with hnn hnn hnn <;> cases h <;> exact ⟨rfl, mask_F0FF_of_fields (by rw [hg, hnn]; rfl), rfl⟩

theorem dispatch8_readAs {c : Config} {w : Word} {i : Instr} (hg : fieldG w = 8) (h : dispatch8 w = some i) :
    ReadAs c w i := by
  unfold dispatch8 at h
  split at h <;> cases h <;>
    next hn => exact ⟨rfl, mask_F00F_of_fields (by rw [hg, hn]; rfl), rfl⟩

theorem dispatchE_readAs {c : Config} {w : Word} {i : Instr} (hg : fieldG w = 0xE) (h : dispatchE w = some i) :
    ReadAs c w i := by
  unfold dispatchE at h
  split_ifs at h with hnn hnn <;> cases h <;> exact ⟨rfl, mask_F0FF_of_fields (by rw [hg, hnn]; rfl), rfl⟩

/-- A member of `TONE_NOP_NN` is read as its setter. -/
theorem toneSetter_readAs {c : Config} {w : Word} (hg : fieldG w = 0xF) (hfixed : fieldNN w ∉ fixedGroupF)
    (hmem : c.toneNopNN.contains (fieldNN w) = true) : ReadAs c w (toneSetter (fieldNN w)) := by
  by_cases h17 : fieldNN w = 0x17
  · rw [h17, toneSetter_17]
    exact ⟨by rwa [h17] at hmem, mask_F0FF_of_fields (by rw [hg, h17]; rfl), rfl⟩
  · by_cases h18 : fieldNN w = 0x18
    · rw [h18, toneSetter_18]
      exact ⟨by rwa [h18] at hmem, mask_F0FF_of_fields (by rw [hg, h18]; rfl), rfl⟩
    · rw [toneSetter_of_ne h17 h18]
      refine ⟨?_, mask_F0FF_of_fields (by rw [hg, toneOther_row_toNat]), rfl⟩
      simp only [Instr.wf, Instr.wfIn, Bool.and_eq_true, bne_iff_ne, Bool.not_eq_true']
      exact ⟨⟨⟨hmem, h17⟩, h18⟩, by simpa using hfixed⟩

theorem dispatchF_readAs {c : Config} {w : Word} {i : Instr} (hg : fieldG w = 0xF)
    (h : dispatchF c.toneNopNN w = some i) : ReadAs c w i := by
  by_cases hfixed : fieldNN w ∈ fixedGroupF
  · simp only [fixedGroupF, List.mem_cons, List.not_mem_nil, or_false] at hfixed
    rcases hfixed with hnn | hnn | hnn | hnn | hnn | hnn | hnn | hnn | hnn <;>
      simp only [dispatchF, hnn] at h <;> cases h <;>
      exact ⟨rfl, mask_F0FF_of_fields (by rw [hg, hnn]; rfl), rfl⟩
  · rw [dispatchF_of_not_fixed hfixed] at h
    split_ifs at h with hmem
    cases h
    exact toneSetter_readAs hg hfixed hmem

/-- SOUND: whatever a word decodes to is an instruction of the machine, selected by its row, with the word's operands. -/
theorem readAs_of_decode {c : Config} {w : Word} {i : Instr} (h : decode c w = some i) : ReadAs c w i := by
  rw [decode, dispatch] at h
  split at h
  case h_1 hg => exact dispatch0_readAs hg h
  case h_6 hg =>
    split_ifs at h with hn
    cases h
    exact ⟨rfl, mask_F00F_of_fields (by rw [hg, hn]; rfl), rfl⟩
  case h_9 hg => exact dispatch8_readAs hg h
  case h_10 hg =>
    split_ifs at h with hn
    cases h
    exact ⟨rfl, mask_F00F_of_fields (by rw [hg, hn]; rfl), rfl⟩
  case h_15 hg => exact dispatchE_readAs hg h
  case h_16 hg => exact dispatchF_readAs hg h
  case h_17 => cases h
  all_goals
    next hg =>
      cases h
      exact ⟨rfl, Laws.EncodeFitsRow.fits_F000 (by rw [hg]; rfl), rfl⟩

/-- The decoder in one line: it answers exactly what the word is read as through the opcode table. -/
theorem decode_eq_some_iff {c : Config} {w : Word} {i : Instr} : decode c w = some i ↔ ReadAs c w i := by
  refine ⟨readAs_of_decode, fun h => ?_⟩
  rw [decode_of_selectsRow h.wf h.row, h.operands]

/-- Settles O3: a selected row decodes, and a decoded word selects its row. -/
theorem decoderSelectsTheOpcodeTableRow : Obligations.DecoderSelectsTheOpcodeTableRow := by
  unfold Obligations.DecoderSelectsTheOpcodeTableRow
  intro c w i hwf
  constructor
  · exact fun hrow => ⟨readFrom w i, decode_of_selectsRow hwf hrow, opcodeRow_readFrom w i⟩
  · rintro ⟨j, hj, heq⟩
    have hrow : SelectsRow w j := (readAs_of_decode hj).row
    rwa [SelectsRow, heq] at hrow

end Sys2Proof.Machine
end

section
/-! PROOFS. The round trip between instructions and words (`30_encoding.md` R64, R68, R70). -/

namespace Sys2Proof.Machine

/-- The operands of an encoded instruction are its own: each of the three word formats keeps its fields. -/
theorem readFrom_encode (i : Instr) : readFrom (encode i) i = i := by
  cases i with
  | nop | cls | ret | stop | pitch | tone | toneOther => rfl
  | jp | call | ldI | jpV0 => simp [readFrom, encode, fieldNNN_packNNN]
  | seImm | sneImm | ldImm | addImm | rnd => simp [readFrom, encode, fieldX_packXNN, fieldNN_packXNN]
  | skp | sknp | ldVxDT | ldVxK | ldDTVx | addI | ldF | ldB | storeRegs | loadRegs =>
    simp [readFrom, encode, fieldX_packXNN]
  | shr | shl => simp [readFrom, encode, fieldX_packXYN]
  | seReg | sneReg | ldReg | orReg | andReg | xorReg | addReg | subReg | subnReg | drw =>
    simp [readFrom, encode, fieldX_packXYN, fieldY_packXYN, fieldN_packXYN]

theorem encode_selectsRow (i : Instr) : SelectsRow (encode i) i :=
  match i with
  | .nop => Laws.EncodeFitsRow.nop
  | .cls => Laws.EncodeFitsRow.cls
  | .ret => Laws.EncodeFitsRow.ret
  | .jp nnn => Laws.EncodeFitsRow.jp nnn
  | .call nnn => Laws.EncodeFitsRow.call nnn
  | .seImm x nn => Laws.EncodeFitsRow.seImm x nn
  | .sneImm x nn => Laws.EncodeFitsRow.sneImm x nn
  | .seReg x y => Laws.EncodeFitsRow.seReg x y
  | .ldImm x nn => Laws.EncodeFitsRow.ldImm x nn
  | .addImm x nn => Laws.EncodeFitsRow.addImm x nn
  | .ldReg x y => Laws.EncodeFitsRow.ldReg x y
  | .orReg x y => Laws.EncodeFitsRow.orReg x y
  | .andReg x y => Laws.EncodeFitsRow.andReg x y
  | .xorReg x y => Laws.EncodeFitsRow.xorReg x y
  | .addReg x y => Laws.EncodeFitsRow.addReg x y
  | .subReg x y => Laws.EncodeFitsRow.subReg x y
  | .shr x => Laws.EncodeFitsRow.shr x
  | .subnReg x y => Laws.EncodeFitsRow.subnReg x y
  | .shl x => Laws.EncodeFitsRow.shl x
  | .sneReg x y => Laws.EncodeFitsRow.sneReg x y
  | .ldI nnn => Laws.EncodeFitsRow.ldI nnn
  | .jpV0 nnn => Laws.EncodeFitsRow.jpV0 nnn
  | .rnd x nn => Laws.EncodeFitsRow.rnd x nn
  | .drw x y n => Laws.EncodeFitsRow.drw x y n
  | .skp x => Laws.EncodeFitsRow.skp x
  | .sknp x => Laws.EncodeFitsRow.sknp x
  | .stop => Laws.EncodeFitsRow.stop
  | .ldVxDT x => Laws.EncodeFitsRow.ldVxDT x
  | .ldVxK x => Laws.EncodeFitsRow.ldVxK x
  | .ldDTVx x => Laws.EncodeFitsRow.ldDTVx x
  | .pitch => Laws.EncodeFitsRow.pitch
  | .tone => Laws.EncodeFitsRow.tone
  | .addI x => Laws.EncodeFitsRow.addI x
  | .ldF x => Laws.EncodeFitsRow.ldF x
  | .ldB x => Laws.EncodeFitsRow.ldB x
  | .storeRegs x => Laws.EncodeFitsRow.storeRegs x
  | .loadRegs x => Laws.EncodeFitsRow.loadRegs x
  | .toneOther nn => Laws.EncodeFitsRow.toneOther nn

/-- The parameters with another `TONE_NOP_NN`: the decoder reads nothing else of them. -/
def withTone (tone : List Byte) : Config := { defaultConfig with toneNopNN := tone }

theorem decode_withTone (tone : List Byte) (w : Word) : decode (withTone tone) w = dispatch tone w := rfl

theorem wf_withTone (tone : List Byte) (i : Instr) : i.wf (withTone tone) = i.wfIn tone := rfl

theorem decode_encode_iff {c : Config} {i : Instr} : decode c (encode i) = some i ↔ i.wf c = true :=
  decode_eq_some_iff.trans ⟨ReadAs.wf, fun hwf => ⟨hwf, encode_selectsRow i, readFrom_encode i⟩⟩

theorem decodeBytes_of_decode {c : Config} {w : Word} {i : Instr} (h : decode c w = some i) (rest : List Byte) :
    decodeBytes c (highByte w :: lowByte w :: rest) = .ok (i, rest) := by
  simp only [decodeBytes, wordOfBytes_bytes, h]

/-- Settles O1: an encoded instruction selects its own row and keeps its operands, so it is read back exactly when it is
an instruction of the machine. -/
theorem decodeOfEncodeIsTheInstruction : Obligations.DecodeOfEncodeIsTheInstruction := by
  unfold Obligations.DecodeOfEncodeIsTheInstruction
  constructor
  · intro tone i
    rw [← decode_withTone, ← wf_withTone]
    exact decode_encode_iff
  · exact fun c i rest hwf => decodeBytes_of_decode (decode_encode_iff.2 hwf) rest

/-! Packing the fields of a word gives the word back, or the word with the field that is left zero masked out. -/

theorem packNNN_fields {w : Word} {g : Nat} (hg : fieldG w = g) : packNNN g (fieldNNN w) = w := by
  subst hg
  apply BitVec.eq_of_toNat_eq
  rw [packNNN_toNat (fieldG_lt w), fieldG_eq, fieldNNN_toNat]; omega

theorem packXNN_fields {w : Word} {g : Nat} {nn : Byte} (hg : fieldG w = g) (hnn : fieldNN w = nn) :
    packXNN g (fieldX w) nn = w := by
  subst hg hnn
  have := w.isLt
  apply BitVec.eq_of_toNat_eq
  rw [packXNN_toNat (fieldG_lt w), fieldG_eq, fieldX_val, fieldNN_toNat]; omega

theorem packXYN_fields {w : Word} {g : Nat} {n : Fin 16} (hg : fieldG w = g) (hn : (fieldN w).val = n.val) :
    packXYN g (fieldX w) (fieldY w) n = w := by
  subst hg
  have := w.isLt
  apply BitVec.eq_of_toNat_eq
  rw [packXYN_toNat (fieldG_lt w), ← hn, fieldG_eq, fieldX_val, fieldY_val, fieldN_val]; omega

theorem packXNN_zero_fields {w : Word} {g : Nat} {nn : Byte} (hg : fieldG w = g) (hnn : fieldNN w = nn) :
    packXNN g 0 nn = w &&& 0xF0FF := by
  subst hg hnn
  apply BitVec.eq_of_toNat_eq
  rw [packXNN_toNat (fieldG_lt w), mask_F0FF, Fin.val_zero, Nat.zero_mul, Nat.add_zero]

/-- A mask of `n` ones from bit `k` up selects the field of `n` bits there. -/
theorem and_field_mask (v n k : Nat) : v &&& (2 ^ n - 1) * 2 ^ k = v / 2 ^ k % 2 ^ n * 2 ^ k := by
  apply Nat.eq_of_testBit_eq
  intro i
  simp only [Nat.testBit_and, Nat.testBit_mul_two_pow, Nat.testBit_mod_two_pow, Nat.testBit_div_two_pow,
    Nat.testBit_two_pow_sub_one]
  by_cases hk : k ≤ i
  · by_cases hn : i - k < n <;> simp [hk, hn]
  · simp [hk]

/-- The mask of the shifts, which ignore `Y` (R68): the upper byte and the lowest nibble. -/
theorem mask_FF0F (w : Word) : (w &&& 0xFF0F).toNat = w.toNat / 256 * 256 + w.toNat % 16 := by
  have hw := w.isLt
  have hlow : w.toNat % 2 ^ 4 < 2 ^ 8 := by omega
  rw [BitVec.toNat_and]
  change w.toNat &&& ((2 ^ 8 - 1) * 2 ^ 8 ||| (2 ^ 4 - 1)) = _
  rw [Nat.and_or_distrib_left, and_field_mask, Nat.and_two_pow_sub_one_eq_mod, Nat.mul_comm,
    ← Nat.two_pow_add_eq_or_of_lt hlow]
  omega

theorem packXYN_zero_fields {w : Word} {g : Nat} {n : Fin 16} (hg : fieldG w = g) (hn : (fieldN w).val = n.val) :
    packXYN g (fieldX w) 0 n = w &&& 0xFF0F := by
  subst hg
  have := w.isLt
  apply BitVec.eq_of_toNat_eq
  rw [packXYN_toNat (fieldG_lt w), mask_FF0F, ← hn, fieldG_eq, fieldX_val, fieldN_val]
  rw [Fin.val_zero]; omega

theorem and_FFFF (w : Word) : w &&& 0xFFFF = w := BitVec.and_allOnes

/-- Encoding what a word is read as gives the word without the fields that its row ignores (R68, R70). -/
theorem encode_readFrom {w : Word} {i : Instr} (h : SelectsRow w i) : encode (readFrom w i) = w &&& usedBits i := by
  cases i with
  | jp | call | ldI | jpV0 =>
    have hg := fieldG_of_mask_F000 h
    simp [opcodeRow] at hg
    exact (packNNN_fields hg).trans (and_FFFF w).symm
  | seImm | sneImm | ldImm | addImm | rnd =>
    have hg := fieldG_of_mask_F000 h
    simp [opcodeRow] at hg
    exact (packXNN_fields hg rfl).trans (and_FFFF w).symm
  | drw =>
    have hg := fieldG_of_mask_F000 h
    simp [opcodeRow] at hg
    exact (packXYN_fields hg rfl).trans (and_FFFF w).symm
  | seReg | sneReg | ldReg | orReg | andReg | xorReg | addReg | subReg | subnReg =>
    obtain ⟨hg, hn⟩ := fields_of_mask_F00F h
    simp only [opcodeRow] at hg hn
    exact (packXYN_fields hg hn).trans (and_FFFF w).symm
  | shr | shl =>
    obtain ⟨hg, hn⟩ := fields_of_mask_F00F h
    simp only [opcodeRow] at hg hn
    exact packXYN_zero_fields hg hn
  | skp | sknp | ldVxDT | ldVxK | ldDTVx | addI | ldF | ldB | storeRegs | loadRegs =>
    obtain ⟨hg, hnn⟩ := fields_of_mask_F0FF h
    simp [opcodeRow] at hg hnn
    exact (packXNN_fields hg hnn).trans (and_FFFF w).symm
  | nop | cls | ret | stop | pitch | tone =>
    obtain ⟨hg, hnn⟩ := fields_of_mask_F0FF h
    simp [opcodeRow] at hg hnn
    exact packXNN_zero_fields hg hnn
  | toneOther nn =>
    obtain ⟨hg, hnn⟩ := fields_of_selectsRow_toneOther h
    exact packXNN_zero_fields hg hnn

/-- Settles O2: the instruction's operands are the word's own fields, so encoding it packs them again. -/
theorem encodeOfDecodeIsTheWordUpToIgnoredFields : Obligations.EncodeOfDecodeIsTheWordUpToIgnoredFields := by
  unfold Obligations.EncodeOfDecodeIsTheWordUpToIgnoredFields
  intro c w i h
  obtain ⟨-, hrow, hoperands⟩ := readAs_of_decode h
  rw [← encode_readFrom hrow, hoperands]

end Sys2Proof.Machine
end

section
/-! PROOFS. The illegal words (`30_encoding.md` R67). -/

namespace Sys2Proof.Machine

theorem dispatch0_eq_none_iff (w : Word) : dispatch0 w = none ↔ fieldNN w ∉ ([0x00, 0xE0, 0xEE] : List Byte) := by
  unfold dispatch0
  split_ifs with h1 h2 h3 <;> simp_all

theorem dispatch8_eq_none_iff (w : Word) :
    dispatch8 w = none ↔ (fieldN w).val ∈ [8, 9, 0xA, 0xB, 0xC, 0xD, 0xF] := by
  have hlt := (fieldN w).isLt
  unfold dispatch8
  generalize (fieldN w).val = n at hlt
  interval_cases n <;> simp

theorem dispatchE_eq_none_iff (w : Word) : dispatchE w = none ↔ fieldNN w ∉ ([0x9E, 0xA1] : List Byte) := by
  unfold dispatchE
  split_ifs with h1 h2 <;> simp_all

theorem dispatchF_eq_none_iff (tone : List Byte) (w : Word) :
    dispatchF tone w = none ↔ fieldNN w ∉ fixedGroupF ∧ fieldNN w ∉ tone := by
  by_cases hfixed : fieldNN w ∈ fixedGroupF
  · have hsome : dispatchF tone w ≠ none := by
      simp only [fixedGroupF, List.mem_cons, List.not_mem_nil, or_false] at hfixed
      rcases hfixed with hnn | hnn | hnn | hnn | hnn | hnn | hnn | hnn | hnn <;>
        simp [dispatchF, hnn]
    simp [hsome, hfixed]
  · rw [dispatchF_of_not_fixed hfixed]
    simp [hfixed]

/-- Settles O4: group by group, the words that a group's dispatch refuses; the groups without a sub-opcode refuse none. -/
theorem unknownOpcodeIsExactlyTheIllegalWords : Obligations.UnknownOpcodeIsExactlyTheIllegalWords := by
  unfold Obligations.UnknownOpcodeIsExactlyTheIllegalWords
  intro tone w
  have hlt := fieldG_lt w
  rw [← fixedGroupF]
  unfold dispatch
  split
  case h_1 hg => simp [hg, dispatch0_eq_none_iff]
  case h_9 hg => simp [hg, dispatch8_eq_none_iff]
  case h_15 hg => simp [hg, dispatchE_eq_none_iff]
  case h_16 hg => simp [hg, dispatchF_eq_none_iff]
  case h_17 => exfalso; interval_cases fieldG w <;> simp_all
  all_goals
    next hg => simp [hg]

/-- Settles O5: the ten words are closed, and the decoder computes on them. -/
theorem wordsWrittenOutDecode : Obligations.WordsWrittenOutDecode := by
  unfold Obligations.WordsWrittenOutDecode
  decide

end Sys2Proof.Machine
end

section
/-! PROOFS. What an instruction can do to the state, said once: the effects, each with the instructions that have it
(`10_state.md` R28, `60_exceptions.md` R186, R188). -/

namespace Sys2Proof.Machine

/-- The state a DRW that is not stopped by its range check leaves (R135, R138). -/
def drawDone (s : State) (x y : RegIdx) (n : Nat) : State :=
  ((s.setMem (s.drawn x y n).mem).setReg flagReg (flagByte (s.drawn x y n).hit)).setDirty true

/-- A DRW passes its range check: it has no rows, or the sprite is inside memory (R135, R140). -/
def DrawFits (s : State) (n : Fin 16) : Prop := n.val = 0 ∨ s.I.toNat + n.val ≤ memSize

theorem not_drawFits {s : State} {n : Fin 16} :
    ¬DrawFits s n ↔ n.val ≠ 0 ∧ memSize < s.I.toNat + n.val := by
  rw [DrawFits, not_or, not_le]

theorem exec_drw_of_fits {s : State} {n : Fin 16} (x y : RegIdx) (h : DrawFits s n) :
    exec (.drw x y n) s = .next (drawDone s x y n.val) := by
  change Host.Outcome.next (if n.val = 0 then drawDone s x y n.val
    else s.checked (s.ea 0) n.val (drawDone s x y n.val)) = _
  split
  · rfl
  · next hn => rw [ea_zero, checked_of_inRange s (h.resolve_left hn)]

theorem exec_drw_of_not_fits {s : State} {n : Fin 16} (x y : RegIdx) (h : ¬DrawFits s n) :
    exec (.drw x y n) s = .next (s.raiseExec .outOfRange (some (s.I.toNat + n.val - 1))) := by
  obtain ⟨hn, hout⟩ := not_drawFits.1 h
  change Host.Outcome.next (if n.val = 0 then drawDone s x y n.val
    else s.checked (s.ea 0) n.val (drawDone s x y n.val)) = _
  rw [if_neg hn, ea_zero, checked_of_outOfRange s hout]

theorem exec_cls (s : State) :
    exec .cls s = .next ((s.setMem (s.stored s.cfg.videoBase (List.replicate videoSize 0))).setDirty true) := rfl

/-- The instructions of group 8 that write VF as a flag (R115). -/
def WritesFlag (i : Instr) : Prop :=
  (∃ x y, i = .addReg x y ∨ i = .subReg x y ∨ i = .subnReg x y) ∨ ∃ x, i = .shr x ∨ i = .shl x

/-- The causes each instruction can raise, with the bad address that goes with them (R188 (6)). -/
def OwnFault (i : Instr) (c : Cause) (bad : Option Nat) : Prop :=
  (c = .notImplemented ∧ bad = none ∧ ((∃ x, i = .skp x ∨ i = .sknp x) ∨ i = .stop)) ∨
  (c = .stackOverflow ∧ bad = none ∧ ∃ nnn, i = .call nnn) ∨
  (c = .stackUnderflow ∧ bad = none ∧ i = .ret) ∨
  (c = .outOfRange ∧ (∃ a, bad = some a ∧ 4096 ≤ a) ∧
    ((∃ x y n, i = .drw x y n) ∨ ∃ x, i = .ldB x ∨ i = .storeRegs x ∨ i = .loadRegs x))

/-- `i`, executed in `s`, can answer this state. -/
inductive Effect (i : Instr) (s : State) : State → Prop where
  | nothing : Effect i s s
  | reg {q : RegIdx} {v : Byte} (h : Writes i q) : Effect i s (s.setReg q v)
  | regAndFlag {f : Bool} {q : RegIdx} {v : Byte} (h : Writes i q) (hf : WritesFlag i) :
      Effect i s (s.setFlagThenReg f q v)
  | load {x : RegIdx} (h : i = .loadRegs x) : Effect i s { s with x := loadUpTo s.mem s.cfg (s.ea 0) x s.x }
  | skip {cond : Bool} (h : isControl i = true) : Effect i s (s.skipIf cond)
  | jump {a : Word} (h : isControl i = true) (ha : a.toNat ≤ 0x10FE) : Effect i s (s.setPc a)
  | call {nnn : BitVec 12} (h : i = .call nnn) (hroom : s.sp.toNat ≠ 2 * s.cfg.stackDepth) :
      Effect i s (s.pushPc.setPc (zextNNN nnn))
  | ret (h : i = .ret) (hused : s.sp ≠ 0) : Effect i s s.popPc
  | index {v : Word} (h : (∃ nnn, i = .ldI nnn) ∨ ∃ x, i = .addI x ∨ i = .ldF x) : Effect i s (s.setI v)
  | timer {x : RegIdx} (h : i = .ldDTVx x) : Effect i s (s.setDt (s.reg x))
  | wait {x : RegIdx} (h : i = .ldVxK x) : Effect i s { s with keydest := x, waiting := true }
  | store {bs : List Byte} (h : ∃ x, i = .ldB x ∨ i = .storeRegs x) (hin : s.I.toNat + bs.length ≤ memSize) :
      Effect i s (s.setMem (s.stored s.I.toNat bs))
  | clear (h : i = .cls) :
      Effect i s ((s.setMem (s.stored s.cfg.videoBase (List.replicate videoSize 0))).setDirty true)
  | draw {x y n : Fin 16} (h : i = .drw x y n) : Effect i s (drawDone s x y n.val)
  | latch {c : Cause} {bad : Option Nat} (h : OwnFault i c bad) : Effect i s (s.raiseExec c bad)

/-- The three memory transfers of group F either have their effect, inside memory, or latch OutOfRange. -/
theorem checked_effect {i : Instr} {s t : State} {n : Nat}
    (hown : ∃ x, i = .ldB x ∨ i = .storeRegs x ∨ i = .loadRegs x)
    (hin : s.I.toNat + n ≤ memSize → Effect i s t) : Effect i s (s.checked (s.ea 0) n t) := by
  rw [ea_zero]
  rcases le_or_gt (s.I.toNat + n) memSize with h | h
  · rw [checked_of_inRange s h]
    exact hin h
  · rw [checked_of_outOfRange s h]
    exact .latch (.inr (.inr (.inr ⟨rfl, ⟨_, rfl, Nat.le_sub_one_of_lt h⟩, .inr hown⟩)))

theorem zextNNN_add_zextByte_toNat (nnn : BitVec 12) (v : Byte) :
    (zextNNN nnn + zextByte v).toNat = nnn.toNat + v.toNat := by
  have hnnn := nnn.isLt
  have hv := v.isLt
  rw [BitVec.toNat_add, zextNNN_toNat, zextByte_toNat]; omega

/-- Every instruction answers a next state, which is one of its effects. -/
theorem exec_effect (i : Instr) (s : State) : ∃ t, exec i s = .next t ∧ Effect i s t := by
  cases i with
  | nop | pitch | tone | toneOther => exact ⟨_, rfl, .nothing⟩
  | ldImm | addImm | rnd | ldReg | orReg | andReg | xorReg | ldVxDT => exact ⟨_, rfl, .reg (by simp [Writes])⟩
  | addReg | subReg | subnReg | shr | shl =>
    exact ⟨_, rfl, .regAndFlag (by simp [Writes]) (by simp [WritesFlag])⟩
  | seImm | sneImm | seReg | sneReg => exact ⟨_, rfl, .skip rfl⟩
  | jp nnn =>
    have := nnn.isLt
    exact ⟨_, rfl, .jump rfl (by rw [zextNNN_toNat]; omega)⟩
  | jpV0 nnn =>
    have := nnn.isLt
    have := (s.reg 0).isLt
    exact ⟨_, rfl, .jump rfl (by rw [zextNNN_add_zextByte_toNat]; omega)⟩
  | call nnn =>
    refine ⟨_, rfl, ?_⟩
    split
    · exact .latch (.inr (.inl ⟨rfl, rfl, _, rfl⟩))
    · next hroom => exact .call rfl hroom
  | ret =>
    refine ⟨_, rfl, ?_⟩
    split
    · exact .latch (.inr (.inr (.inl ⟨rfl, rfl, rfl⟩)))
    · next hused => exact .ret rfl hused
  | ldI nnn => exact ⟨_, rfl, .index (.inl ⟨nnn, rfl⟩)⟩
  | addI x | ldF x => exact ⟨_, rfl, .index (.inr ⟨x, by simp⟩)⟩
  | ldDTVx => exact ⟨_, rfl, .timer rfl⟩
  | ldVxK => exact ⟨_, rfl, .wait rfl⟩
  | cls => exact ⟨_, exec_cls s, .clear rfl⟩
  | drw x y n =>
    by_cases hfits : DrawFits s n
    · exact ⟨_, exec_drw_of_fits x y hfits, .draw rfl⟩
    · obtain ⟨-, hout⟩ := not_drawFits.1 hfits
      exact ⟨_, exec_drw_of_not_fits x y hfits,
        .latch (.inr (.inr (.inr ⟨rfl, ⟨_, rfl, Nat.le_sub_one_of_lt hout⟩, .inl ⟨x, y, n, rfl⟩⟩)))⟩
  | ldB x =>
    refine ⟨_, rfl, checked_effect ⟨x, by simp⟩ fun hin => ?_⟩
    rw [ea_zero]
    exact .store ⟨x, by simp⟩ (by rwa [length_bcdDigits])
  | storeRegs x =>
    refine ⟨_, rfl, checked_effect ⟨x, by simp⟩ fun hin => ?_⟩
    rw [ea_zero]
    exact .store ⟨x, by simp⟩ (by rwa [length_regsUpTo])
  | loadRegs x => exact ⟨_, rfl, checked_effect ⟨x, by simp⟩ fun _ => .load rfl⟩
  | skp x | sknp x => exact ⟨_, rfl, .latch (.inl ⟨rfl, rfl, .inl ⟨x, by simp⟩⟩)⟩
  | stop => exact ⟨_, rfl, .latch (.inl ⟨rfl, rfl, .inr rfl⟩)⟩

theorem effect_of_exec {i : Instr} {s t : State} (h : exec i s = .next t) : Effect i s t := by
  obtain ⟨u, hu, heffect⟩ := exec_effect i s
  rw [h] at hu
  cases hu
  exact heffect

end Sys2Proof.Machine
end

section
/-! PROOFS. What each effect leaves alone (`10_state.md` R28). -/

namespace Sys2Proof.Machine

variable {i : Instr} {s t : State}

/-- What no instruction writes: the host's side of the state and the address, the word and the byte in progress. -/
structure KeepsHost (s t : State) : Prop where
  acc : t.acc = s.acc
  keys : t.keys = s.keys
  curAddr : t.curAddr = s.curAddr
  curWord : t.curWord = s.curWord
  rnd : t.rnd = s.rnd
  inputs : t.inputs = s.inputs
  draws : t.draws = s.draws
  reply : t.reply = s.reply
  cfg : t.cfg = s.cfg

theorem Effect.keepsHost (h : Effect i s t) : KeepsHost s t := by
  cases h with
  | skip | clear | draw => constructor <;> simp [drawDone]
  | _ => constructor <;> rfl

theorem Effect.of_I_ne (h : Effect i s t) (hne : t.I ≠ s.I) :
    (∃ nnn, i = .ldI nnn) ∨ ∃ x, i = .addI x ∨ i = .ldF x := by
  cases h with
  | index hi => exact hi
  | skip | clear | draw => simp [drawDone] at hne
  | _ => exact absurd rfl hne

theorem Effect.of_stack_ne (h : Effect i s t) (hne : t.sp ≠ s.sp ∨ t.stack ≠ s.stack) :
    (∃ nnn, i = .call nnn) ∨ i = .ret := by
  cases h with
  | call hi => exact .inl ⟨_, hi⟩
  | ret hi => exact .inr hi
  | skip => simp at hne
  | _ => exact absurd hne (by simp [drawDone])

theorem Effect.of_mem_ne (h : Effect i s t) (hne : t.mem ≠ s.mem) :
    i = .cls ∨ (∃ x y n, i = .drw x y n) ∨ ∃ x, i = .ldB x ∨ i = .storeRegs x := by
  cases h with
  | clear hi => exact .inl hi
  | draw hi => exact .inr (.inl ⟨_, _, _, hi⟩)
  | store hi => exact .inr (.inr hi)
  | skip => simp at hne
  | _ => exact absurd rfl hne

theorem Effect.of_dt_ne (h : Effect i s t) (hne : t.dt ≠ s.dt) : ∃ x, i = .ldDTVx x := by
  cases h with
  | timer hi => exact ⟨_, hi⟩
  | skip | clear | draw => simp [drawDone] at hne
  | _ => exact absurd rfl hne

theorem Effect.of_wait_ne (h : Effect i s t) (hne : t.waiting ≠ s.waiting ∨ t.keydest ≠ s.keydest) :
    ∃ x, i = .ldVxK x := by
  cases h with
  | wait hi => exact ⟨_, hi⟩
  | skip => simp at hne
  | _ => exact absurd hne (by simp [drawDone])

theorem Effect.of_dirty_ne (h : Effect i s t) (hne : t.dirty ≠ s.dirty) : i = .cls ∨ ∃ x y n, i = .drw x y n := by
  cases h with
  | clear hi => exact .inl hi
  | draw hi => exact .inr ⟨_, _, _, hi⟩
  | skip => simp at hne
  | _ => exact absurd rfl hne

/-- `pc` is changed by a control transfer, or put back by a fault. -/
theorem Effect.of_pc_ne (h : Effect i s t) (hne : t.pc ≠ s.pc) :
    isControl i = true ∨ ∃ c bad, t = s.raiseExec c bad := by
  cases h with
  | skip hi => exact .inl hi
  | jump hi => exact .inl hi
  | call hi => exact .inl (by rw [hi]; rfl)
  | ret hi => exact .inl (by rw [hi]; rfl)
  | latch => exact .inr ⟨_, _, rfl⟩
  | clear | draw => simp [drawDone] at hne
  | _ => exact absurd rfl hne

/-- A register is changed as a result, as one of a block load, or, VF alone, as a flag or by a draw. -/
theorem Effect.of_reg_ne (h : Effect i s t) {q : RegIdx} (hne : t.reg q ≠ s.reg q) :
    Writes i q ∨ q = 15 ∧ (WritesFlag i ∨ ∃ x y n, i = .drw x y n) := by
  cases h with
  | @reg r _ hi =>
    by_cases hq : q = r
    · exact .inl (hq ▸ hi)
    · exact absurd (setReg_reg_ne s _ _ _ hq) hne
  | @regAndFlag _ r _ hi hf =>
    by_cases hq : q = r
    · exact .inl (hq ▸ hi)
    · by_cases h15 : q = flagReg
      · exact .inr ⟨h15, .inl hf⟩
      · exact absurd (by rw [setFlagThenReg_reg, if_neg hq, if_neg h15]) hne
  | @load x hi =>
    by_cases hq : q ≤ x
    · exact .inl (by simp [Writes, hi, hq])
    · exact absurd ((loadUpTo_get _ _ _ _ _ _).trans (if_neg hq)) hne
  | draw hi =>
    by_cases h15 : q = flagReg
    · exact .inr ⟨h15, .inr ⟨_, _, _, hi⟩⟩
    · exact absurd (setReg_reg_ne _ _ _ _ h15) hne
  | skip | clear => simp at hne
  | _ => exact absurd rfl hne

/-- Settles O25: each component is compared over the effects; the fault that moves `pc` is the instruction's own. -/
theorem onlyTheListedInstructionsWriteAComponent : Obligations.OnlyTheListedInstructionsWriteAComponent := by
  unfold Obligations.OnlyTheListedInstructionsWriteAComponent
  intro i s t hexec
  have h := effect_of_exec hexec
  obtain ⟨hacc, hkeys, haddr, hword, hrnd, hinputs, hdraws, hreply, hcfg⟩ := h.keepsHost
  refine ⟨h.of_I_ne, h.of_stack_ne, h.of_mem_ne, h.of_dt_ne, h.of_wait_ne, h.of_dirty_ne, fun hpc => ?_,
    fun q hq hreg => ?_, fun hreg => ?_, hacc, hkeys, haddr, hword, hrnd, hinputs, hdraws, hreply, hcfg⟩
  · rcases h.of_pc_ne hpc with hcontrol | ⟨c, bad, rfl⟩
    · exact .inl hcontrol
    · exact .inr ⟨c, bad, hexec⟩
  · exact (h.of_reg_ne hreg).resolve_right fun h15 => hq h15.1
  · rcases h.of_reg_ne hreg with hw | ⟨-, (harith | hshift) | hdrw⟩
    · exact .inr (.inr (.inr hw))
    · exact .inl harith
    · exact .inr (.inl hshift)
    · exact .inr (.inr (.inl hdrw))

/-- Settles O24: only the effect `latch` touches the record, and it carries the instruction's own causes. -/
theorem everyInstructionCompletesOrFaultsPrecisely : Obligations.EveryInstructionCompletesOrFaultsPrecisely := by
  unfold Obligations.EveryInstructionCompletesOrFaultsPrecisely
  intro i s
  obtain ⟨t, hexec, h⟩ := exec_effect i s
  cases h with
  | latch hown => exact .inr ⟨_, _, hexec, hown⟩
  | skip | clear | draw => exact .inl ⟨_, hexec, by simp [drawDone]⟩
  | _ => exact .inl ⟨_, hexec, rfl⟩

end Sys2Proof.Machine
end

section
/-! PROOFS. What no instruction reads (`10_state.md` R28, `45_index_random.md` R132, `47_key.md` R143). -/

namespace Sys2Proof.Machine

/-- What lies outside an instruction: the host's side of the state, and the random byte. -/
structure Outside where
  keys : Vector Bool 16
  acc : Rat
  dirty : Bool
  inputs : List Event
  draws : Nat
  reply : Reply
  rnd : Byte

/-- `s` with another outside. -/
def withOutside (p : Outside) (s : State) : State :=
  { s with
    keys := p.keys, acc := p.acc, dirty := p.dirty, inputs := p.inputs, draws := p.draws, reply := p.reply
    rnd := p.rnd }

section
variable (p : Outside) (s : State)

theorem withOutside_skipIf (cond : Bool) : (withOutside p s).skipIf cond = withOutside p (s.skipIf cond) := by
  cases cond <;> rfl

theorem withOutside_checked (a n : Nat) (t : State) :
    (withOutside p s).checked a n (withOutside p t) = withOutside p (s.checked a n t) :=
  (apply_ite (withOutside p) (inRange a n = true) t (s.raiseExec .outOfRange (some (a + n - 1)))).symm

theorem withOutside_stored (a : Nat) (bs : List Byte) : (withOutside p s).stored a bs = s.stored a bs := rfl

end

theorem setsDirty_drw_iff {x y : RegIdx} {n : Fin 16} {s : State} : SetsDirty (.drw x y n) s ↔ DrawFits s n := by
  constructor
  · rintro (h | ⟨_, _, _, h, hfits⟩)
    · cases h
    · cases h
      exact hfits
  · exact fun hfits => .inr ⟨x, y, n, rfl, hfits⟩

/-- An instruction that does not set `dirty` commutes with any change of its outside; RND, with one that keeps the random
byte. -/
theorem exec_withOutside {i : Instr} {s t : State} (p : Outside) (hrnd : (∀ x nn, i ≠ .rnd x nn) ∨ p.rnd = s.rnd)
    (hset : ¬SetsDirty i s) (h : exec i s = .next t) : exec i (withOutside p s) = .next (withOutside p t) := by
  cases i with
  | cls => exact absurd (.inl rfl) hset
  | drw x y n =>
    have hfits : ¬DrawFits s n := mt setsDirty_drw_iff.2 hset
    rw [exec_drw_of_not_fits x y hfits] at h
    cases h
    exact exec_drw_of_not_fits (s := withOutside p s) x y hfits
  | rnd x nn =>
    have hsame : p.rnd = s.rnd := hrnd.resolve_left fun hne => hne x nn rfl
    cases h
    change Host.Outcome.next ((withOutside p s).setReg x (nn &&& p.rnd)) = _
    rw [hsame]
    rfl
  | seImm | sneImm | seReg | sneReg =>
    cases h
    exact congrArg Host.Outcome.next (withOutside_skipIf p s _)
  | call nnn =>
    cases h
    exact congrArg Host.Outcome.next (apply_ite (withOutside p) (s.sp.toNat = 2 * s.cfg.stackDepth)
      (s.raiseExec .stackOverflow none) (s.pushPc.setPc (zextNNN nnn))).symm
  | ret =>
    cases h
    exact congrArg Host.Outcome.next
      (apply_ite (withOutside p) (s.sp = 0) (s.raiseExec .stackUnderflow none) s.popPc).symm
  | ldB x =>
    cases h
    exact congrArg Host.Outcome.next
      (withOutside_checked p s (s.ea 0) 3 (s.setMem (s.stored (s.ea 0) (bcdDigits (s.reg x)))))
  | storeRegs x =>
    cases h
    exact congrArg Host.Outcome.next
      (withOutside_checked p s (s.ea 0) (x.val + 1) (s.setMem (s.stored (s.ea 0) (s.regsUpTo x))))
  | loadRegs x =>
    cases h
    exact congrArg Host.Outcome.next
      (withOutside_checked p s (s.ea 0) (x.val + 1) { s with x := loadUpTo s.mem s.cfg (s.ea 0) x s.x })
  | _ => cases h; rfl

/-- An instruction that sets `dirty` is CLS or a DRW that completes; both set it whatever their outside is. -/
theorem exec_withOutside_of_setsDirty {i : Instr} {s t : State} (p : Outside) (hset : SetsDirty i s)
    (h : exec i s = .next t) : exec i (withOutside p s) = .next (withOutside { p with dirty := true } t) := by
  rcases hset with rfl | ⟨x, y, n, rfl, hfits⟩
  · rw [exec_cls] at h ⊢
    cases h
    rw [withOutside_stored]
    generalize List.replicate videoSize (0 : Byte) = zeros
    rfl
  · rw [exec_drw_of_fits x y hfits] at h
    cases h
    exact exec_drw_of_fits (s := withOutside p s) x y hfits

/-- Settles O26: an instruction commutes with a change of its outside that keeps the random byte, but for the `dirty` it
sets. -/
theorem noInstructionReadsKeysAccumulatorOrDirty : Obligations.NoInstructionReadsKeysAccumulatorOrDirty := by
  unfold Obligations.NoInstructionReadsKeysAccumulatorOrDirty
  intro i s t keys acc dirty inputs draws reply h
  have hrnd : t.rnd = s.rnd := (effect_of_exec h).keepsHost.rnd
  by_cases hset : SetsDirty i s
  · refine ⟨_, exec_withOutside_of_setsDirty ⟨keys, acc, dirty, inputs, draws, reply, s.rnd⟩ hset h, ?_,
      fun _ => rfl, fun hno => absurd hset hno⟩
    rw [← hrnd]
    rfl
  · refine ⟨_, exec_withOutside ⟨keys, acc, dirty, inputs, draws, reply, s.rnd⟩ (.inr rfl) hset h, ?_,
      fun hyes => absurd hyes hset, fun _ => rfl⟩
    rw [← hrnd]
    rfl

/-- The outside of `s` itself, but for the random byte. -/
def ownOutside (s : State) (b : Byte) : Outside := ⟨s.keys, s.acc, s.dirty, s.inputs, s.draws, s.reply, b⟩

theorem withOutside_own (s : State) (b : Byte) : withOutside (ownOutside s b) s = { s with rnd := b } := rfl

/-- What no instruction writes is the same outside after as before, but for `dirty`. -/
theorem ownOutside_of_exec {i : Instr} {s t : State} (h : exec i s = .next t) (b : Byte) :
    { ownOutside s b with dirty := t.dirty } = ownOutside t b := by
  obtain ⟨hacc, hkeys, -, -, -, hinputs, hdraws, hreply, -⟩ := (effect_of_exec h).keepsHost
  simp only [ownOutside, hacc, hkeys, hinputs, hdraws, hreply]

/-- Settles O27: for the other instructions the random byte is outside too. -/
theorem randomByteReachesOnlyRnd : Obligations.RandomByteReachesOnlyRnd := by
  unfold Obligations.RandomByteReachesOnlyRnd
  intro i s t b hi h
  rw [← withOutside_own s b, ← withOutside_own t b, ← ownOutside_of_exec h b]
  by_cases hset : SetsDirty i s
  · have hd : t.dirty = true := by
      have hself := exec_withOutside_of_setsDirty (ownOutside s s.rnd) hset h
      rw [withOutside_own s s.rnd, h] at hself
      exact congrArg State.dirty (Host.Outcome.next.inj hself)
    rw [hd]
    exact exec_withOutside_of_setsDirty _ hset h
  · have hd : t.dirty = s.dirty := by
      have hself := exec_withOutside (ownOutside s s.rnd) (.inr rfl) hset h
      rw [withOutside_own s s.rnd, h] at hself
      have hsame := congrArg State.dirty (Host.Outcome.next.inj hself)
      exact hsame
    rw [hd]
    exact exec_withOutside _ (.inl hi) hset h

end Sys2Proof.Machine
end

section
/-! PROOFS. What an event can do to the state, said once (`60_exceptions.md` R188, R195 to R201, R210). -/

namespace Sys2Proof.Machine

/-- The instruction part of an `Advance`, run from `s` with the random byte `b`, can leave this state (R192, R193). -/
inductive Ran (s : State) (b : Byte) : State → Prop where
  | fetchFault (hpc : memSize < s.pc.toNat + 2) :
      Ran s b ((s.latch b).raiseFault .outOfRange none (some (s.pc.toNat + 1)))
  | unknown (hpc : s.pc.toNat + 2 ≤ memSize) : Ran s b ((s.latch b).fetched.raiseExec .unknownOpcode none)
  | executed {i : Instr} {t : State} (hpc : s.pc.toNat + 2 ≤ memSize) (h : Effect i (s.latch b).fetched t) : Ran s b t

theorem fetchAndExec_ran (s : State) (b : Byte) : ∃ t, fetchAndExec b s = .next t.report ∧ Ran s b t := by
  rcases le_or_gt (s.pc.toNat + 2) memSize with hpc | hpc
  · rw [fetchAndExec_inRange s b hpc]
    cases hi : decode (s.latch b).fetched.cfg (s.latch b).fetched.curWord with
    | none => exact ⟨_, dispatchAndExec_none _ hi, .unknown hpc⟩
    | some i =>
      obtain ⟨t, hexec, heffect⟩ := exec_effect i (s.latch b).fetched
      exact ⟨t, by rw [dispatchAndExec_some _ hi, hexec, afterExec_next], .executed hpc heffect⟩
  · exact ⟨_, fetchAndExec_outOfRange s b hpc, .fetchFault hpc⟩

/-- `Advance(e, b)` in `s` can leave this state, in the order of R188. -/
inductive Advanced (s : State) (e : Rat) (b : Byte) : State → Prop where
  | refused (he : e < 0) : Advanced s e b (s.answer .refused)
  | latched {r : FaultRecord} (he : 0 ≤ e) (hf : s.fault = some r) : Advanced s e b (s.answer (.fault r))
  | waiting (he : 0 ≤ e) (hf : s.fault = none) (hw : s.waiting = true) : Advanced s e b (s.timerStep e).report
  | running {t : State} (he : 0 ≤ e) (hf : s.fault = none) (hw : s.waiting = false) (h : Ran (s.timerStep e) b t) :
      Advanced s e b t.report

theorem advance_advanced (s : State) (e : Rat) (b : Byte) : ∃ t, advance e b s = .next t ∧ Advanced s e b t := by
  rcases lt_or_ge e 0 with hneg | he
  · exact ⟨_, advance_refused s e b hneg, .refused hneg⟩
  · cases hf : s.fault with
    | some r => exact ⟨_, advance_latched s e b he hf, .latched he hf⟩
    | none =>
      cases hw : s.waiting with
      | true => exact ⟨_, advance_waiting s e b he hf hw, .waiting he hf hw⟩
      | false =>
        obtain ⟨t, ht, hran⟩ := fetchAndExec_ran (s.timerStep e) b
        exact ⟨_, (advance_running s e b he hf hw).trans ht, .running he hf hw hran⟩

/-- An event, run in `s`, can leave this state. -/
inductive Happens (s : State) : Event → State → Prop where
  | advance {e : Rat} {b : Byte} {t : State} (h : Advanced s e b t) : Happens s (.advance e b) t
  | invalidKey {key : Int} {pressed : Bool} (h : key < 0 ∨ key > 15) :
      Happens s (.setKeyState key pressed) (s.answer .invalidKey)
  | key {k : Fin 16} {pressed : Bool} :
      Happens s (.setKeyState (k.val : Int) pressed) ((s.keyEvent k pressed).answer .ok)
  | readFrame : Happens s .readFrame (s.answer (.frame s.frame s.dirty))
  | clearDirty : Happens s .clearDirty ((s.setDirty false).answer .ok)
  | construct {p : List Byte} (h : p.length ≤ programMax s.cfg) :
      Happens s (.construct p) { State.constructed s.cfg p with inputs := s.inputs, draws := s.draws }

theorem exists_key {key : Int} (h : ¬(key < 0 ∨ key > 15)) : ∃ k : Fin 16, key = (k.val : Int) :=
  ⟨⟨key.toNat, by omega⟩, by simp only; omega⟩

theorem construct_of_fits {p : List Byte} {s : State} (h : p.length ≤ programMax s.cfg) :
    construct p s = .next { State.constructed s.cfg p with inputs := s.inputs, draws := s.draws } := by
  rw [construct, if_pos h]

theorem construct_of_too_long {p : List Byte} {s : State} (h : programMax s.cfg < p.length) :
    construct p s = .fault .constructOutOfRange := by
  rw [construct, if_neg (not_le.2 h)]

/-- Every event is answered, but for an over-long `Construct` (R211). -/
theorem runEvent_happens (ev : Event) (s : State) :
    (∃ t, runEvent ev s = .next t ∧ Happens s ev t) ∨
    ∃ p : List Byte, ev = .construct p ∧ programMax s.cfg < p.length ∧
      runEvent ev s = .fault .constructOutOfRange := by
  cases ev with
  | advance e b =>
    obtain ⟨t, ht, hadv⟩ := advance_advanced s e b
    exact .inl ⟨t, ht, .advance hadv⟩
  | setKeyState key pressed =>
    by_cases h : key < 0 ∨ key > 15
    · exact .inl ⟨_, setKeyState_of_invalid h pressed s, .invalidKey h⟩
    · obtain ⟨k, rfl⟩ := exists_key h
      exact .inl ⟨_, setKeyState_of_valid k pressed s, .key⟩
  | readFrame => exact .inl ⟨_, rfl, .readFrame⟩
  | clearDirty => exact .inl ⟨_, rfl, .clearDirty⟩
  | construct p =>
    rcases le_or_gt p.length (programMax s.cfg) with h | h
    · exact .inl ⟨_, construct_of_fits h, .construct h⟩
    · exact .inr ⟨p, rfl, h, construct_of_too_long h⟩

theorem happens_of_step {s t : State} (h : step s = .next t) : Happens s.eventTaken s.nextEvent t := by
  rcases runEvent_happens s.nextEvent s.eventTaken with ⟨u, hu, hhappens⟩ | ⟨p, -, -, hfault⟩
  · rw [step, hu] at h
    cases h
    exact hhappens
  · rw [step, hfault] at h
    cases h

end Sys2Proof.Machine
end

section
/-! PROOFS. What the events keep: the fault record, the key wait, `dirty`, the host's list and the parameters
(`60_exceptions.md`, `10_state.md` R23). -/

namespace Sys2Proof.Machine

variable {s t : State}

/-- A key event touches nothing but the registers, the wait and the key levels. -/
theorem keyEvent_eq (s : State) (k : Fin 16) (pressed : Bool) :
    s.keyEvent k pressed = { s with
      x := (s.keyEvent k pressed).x, waiting := (s.keyEvent k pressed).waiting
      keys := (s.keyEvent k pressed).keys } := by
  by_cases h : PressEdge s k pressed
  · rw [keyEvent_of_pressEdge h]
  · rw [keyEvent_of_not_pressEdge h]

theorem keyEvent_dirty (s : State) (k : Fin 16) (pressed : Bool) : (s.keyEvent k pressed).dirty = s.dirty := by
  rw [keyEvent_eq]

theorem Effect.dirty {i : Instr} (h : Effect i s t) (hd : s.dirty = true) : t.dirty = true := by
  cases h with
  | skip => rwa [skipIf_dirty]
  | clear | draw => rfl
  | _ => exact hd

theorem Ran.dirty {b : Byte} (h : Ran s b t) (hd : s.dirty = true) : t.dirty = true := by
  cases h with
  | executed _ h => exact h.dirty hd
  | _ => exact hd

theorem Advanced.dirty {e : Rat} {b : Byte} (h : Advanced s e b t) (hd : s.dirty = true) : t.dirty = true := by
  cases h with
  | running _ _ _ h => exact h.dirty hd
  | _ => exact hd

/-- Settles O17: the other events keep `dirty` or set it. -/
theorem dirtyIsClearedOnlyByClearDirty : Obligations.DirtyIsClearedOnlyByClearDirty := by
  unfold Obligations.DirtyIsClearedOnlyByClearDirty
  constructor
  · intro s hev
    rw [step, hev]
    rfl
  · intro s t hd hstep hclear
    have h := happens_of_step hstep
    have hd' : s.eventTaken.dirty = true := by rw [eventTaken_dirty, hd]
    suffices s.nextEvent ≠ .clearDirty → t.dirty = true by
      by_contra hne
      rw [this hne] at hclear
      cases hclear
    intro hne
    generalize s.nextEvent = ev at h hne
    cases h with
    | advance h => exact h.dirty hd'
    | key => rw [answer_dirty, keyEvent_dirty, hd']
    | invalidKey | readFrame => exact hd'
    | clearDirty => exact absurd rfl hne
    | construct => rfl

/-- Settles O15: while waiting, an `Advance` keeps the wait and a `SetKeyState` ends it only as a press edge. -/
theorem keyWaitEndsOnlyOnAPressEdge : Obligations.KeyWaitEndsOnlyOnAPressEdge := by
  unfold Obligations.KeyWaitEndsOnlyOnAPressEdge
  intro s t hw hstep hend
  have h := happens_of_step hstep
  have hw' : s.eventTaken.waiting = true := by rw [eventTaken_waiting, hw]
  have hends : t.waiting ≠ s.eventTaken.waiting := by rw [hend, hw']; exact Bool.false_ne_true
  generalize s.nextEvent = ev at h
  cases h with
  | advance h =>
    cases h with
    | running _ _ hrunning => rw [hrunning] at hw'; cases hw'
    | _ => exact absurd rfl hends
  | invalidKey | readFrame | clearDirty => exact absurd rfl hends
  | @key k pressed =>
    by_cases hedge : PressEdge s.eventTaken k pressed
    · obtain ⟨-, rfl, hkey⟩ := eventTaken_pressEdge.1 hedge
      refine .inl ⟨k, rfl, hkey, ?_⟩
      rw [answer_reg, keyEvent_of_pressEdge hedge, ← eventTaken_keydest s]
      exact setReg_reg_same s.eventTaken s.eventTaken.keydest _
    · exact absurd (by rw [answer_waiting, keyEvent_of_not_pressEdge hedge]) hends
  | construct => exact .inr ⟨_, rfl⟩

/-- Settles O9: with a record latched, `Advance` only answers, and the other events do not touch the engine. -/
theorem latchedFaultStopsTheEngine : Obligations.LatchedFaultStopsTheEngine := by
  unfold Obligations.LatchedFaultStopsTheEngine
  constructor
  · intro s e b r he hev hf
    rw [step_of_advance hev, advance_latched s.eventTaken e b he (by rw [eventTaken_fault, hf])]
    rfl
  · intro s t r hf hno hstep
    have h := happens_of_step hstep
    have hf' : s.eventTaken.fault = some r := by rw [eventTaken_fault, hf]
    generalize s.nextEvent = ev at h hno
    suffices t.fault = s.eventTaken.fault ∧ t.pc = s.eventTaken.pc ∧ t.mem = s.eventTaken.mem ∧
        t.I = s.eventTaken.I ∧ t.sp = s.eventTaken.sp ∧ t.stack = s.eventTaken.stack ∧ t.dt = s.eventTaken.dt ∧
        t.acc = s.eventTaken.acc by simpa [hf] using this
    cases h with
    | advance h =>
      cases h with
      | refused | latched => simp
      | waiting _ hnone => rw [hf'] at hnone; cases hnone
      | running _ hnone => rw [hf'] at hnone; cases hnone
    | key => rw [keyEvent_eq]; simp
    | invalidKey | readFrame | clearDirty => simp
    | construct => exact absurd rfl (hno _)

/-- The host's list and draw counter, and the parameters: what no event changes beyond taking itself. -/
structure KeepsInputs (s t : State) : Prop where
  inputs : t.inputs = s.inputs
  draws : t.draws = s.draws
  cfg : t.cfg = s.cfg

theorem Effect.keepsInputs {i : Instr} (h : Effect i s t) : KeepsInputs s t :=
  ⟨h.keepsHost.inputs, h.keepsHost.draws, h.keepsHost.cfg⟩

theorem Ran.keepsInputs {b : Byte} (h : Ran s b t) : KeepsInputs s t := by
  cases h with
  | executed _ h =>
    obtain ⟨hinputs, hdraws, hcfg⟩ := h.keepsInputs
    exact ⟨hinputs, hdraws, hcfg⟩
  | _ => exact ⟨rfl, rfl, rfl⟩

theorem Advanced.keepsInputs {e : Rat} {b : Byte} (h : Advanced s e b t) : KeepsInputs s t := by
  cases h with
  | running _ _ _ h =>
    obtain ⟨hinputs, hdraws, hcfg⟩ := h.keepsInputs
    exact ⟨hinputs, hdraws, hcfg⟩
  | _ => exact ⟨rfl, rfl, rfl⟩

theorem Happens.keepsInputs {ev : Event} (h : Happens s ev t) : KeepsInputs s t := by
  cases h with
  | advance h => exact h.keepsInputs
  | key => rw [keyEvent_eq]; exact ⟨rfl, rfl, rfl⟩
  | _ => exact ⟨rfl, rfl, rfl⟩

/-- Settles O23: every event is answered, and keeps the list, the counter and the parameters it found. -/
theorem everyEventIsAnswered : Obligations.EveryEventIsAnswered := by
  unfold Obligations.EveryEventIsAnswered
  intro s
  rcases runEvent_happens s.nextEvent s.eventTaken with ⟨t, ht, h⟩ | ⟨p, hev, hlong, hfault⟩
  · obtain ⟨hinputs, hdraws, hcfg⟩ := h.keepsInputs
    exact .inl ⟨t, ht, hinputs, hdraws, by rw [hcfg, eventTaken_cfg]⟩
  · exact .inr ⟨p, hev, by rwa [eventTaken_cfg] at hlong, hfault⟩

/-- Settles O11: the sign of `elapsed` is looked at first. -/
theorem negativeElapsedIsRefused : Obligations.NegativeElapsedIsRefused := by
  unfold Obligations.NegativeElapsedIsRefused
  intro s e b he hev
  rw [step_of_advance hev, advance_refused s.eventTaken e b he]
  rfl

theorem step_of_construct {s : State} {p : List Byte} (h : s.nextEvent = .construct p) :
    step s = construct p s.eventTaken := by
  rw [step, h, runEvent]

/-- Settles O19: the length is compared with `PROGRAM_MAX`, and nothing is built. -/
theorem overlongConstructLeavesNoMachine : Obligations.OverlongConstructLeavesNoMachine := by
  unfold Obligations.OverlongConstructLeavesNoMachine
  intro s p hev hlong
  rw [step_of_construct hev, construct_of_too_long (by rwa [eventTaken_cfg])]

end Sys2Proof.Machine
end

section
/-! PROOFS. The two faults of the fetch and the dispatch (`60_exceptions.md` R181, R192). -/

namespace Sys2Proof.Machine

/-- Settles O7: the word is dispatched in the state after the fetch, and the fault puts `pc` back. -/
theorem unknownOpcodeIsLatchedPrecisely : Obligations.UnknownOpcodeIsLatchedPrecisely := by
  unfold Obligations.UnknownOpcodeIsLatchedPrecisely
  intro s e b h hpc hi
  have hfetch : (s.eventTaken.timerStep e).pc.toNat + 2 ≤ memSize := by
    rw [timerStep_pc, eventTaken_pc]
    exact hpc
  have hdecode : decode (advancedTo s e b).cfg (advancedTo s e b).curWord = none := by
    rw [advancedTo_cfg, advancedTo_curWord, hi]
  have hstep : step s = .next ((advancedTo s e b).raiseExec .unknownOpcode none).report :=
    calc step s
      _ = fetchAndExec b (s.eventTaken.timerStep e) := step_of_executes s e b h
      _ = dispatchAndExec (advancedTo s e b) := fetchAndExec_inRange _ b hfetch
      _ = _ := dispatchAndExec_none _ hdecode
  rw [hstep, advancedTo_eq, ← eventTaken_pc s]
  rfl

/-- Settles O8: the bounds are checked before the fetch, so the record has no word. -/
theorem fetchOutsideMemoryLatchesOutOfRange : Obligations.FetchOutsideMemoryLatchesOutOfRange := by
  unfold Obligations.FetchOutsideMemoryLatchesOutOfRange
  intro s e b h hpc
  have hfetch : memSize < (s.eventTaken.timerStep e).pc.toNat + 2 := by
    rw [timerStep_pc, eventTaken_pc]
    exact hpc
  rw [step_of_executes s e b h, fetchAndExec_outOfRange _ b hfetch, ← eventTaken_pc s]
  rfl

end Sys2Proof.Machine
end

section
/-! PROOFS. The call stack (`10_state.md` R16, R17). -/

namespace Sys2Proof.Machine

variable {s : State}

/-- A push on a stack with room raises `sp` by 2 without wrapping (R47). -/
theorem push_sp_toNat (hlegal : legalConfig s.cfg) (hinv : StackInv s) (hroom : s.sp.toNat ≠ 2 * s.cfg.stackDepth) :
    (s.sp + 2).toNat = s.sp.toNat + 2 ∧ s.sp.toNat + 2 ≤ 2 * s.cfg.stackDepth := by
  obtain ⟨-, heven, hle⟩ := hinv
  obtain ⟨-, -, -, -, -, -, -, -, hdepth⟩ := hlegal
  rw [BitVec.toNat_add]
  change (s.sp.toNat + 2) % 65536 = _ ∧ _
  omega

/-- A pop of a stack in use lowers `sp` by 2 without wrapping. -/
theorem pop_sp_toNat (hused : 2 ≤ s.sp.toNat) : (s.sp - 2).toNat = s.sp.toNat - 2 :=
  BitVec.toNat_sub_of_le (BitVec.le_def.2 hused)

theorem two_le_sp (hinv : StackInv s) (hused : s.sp ≠ 0) : 2 ≤ s.sp.toNat := by
  obtain ⟨-, heven, -⟩ := hinv
  have hne : s.sp.toNat ≠ 0 := fun h => hused (BitVec.eq_of_toNat_eq h)
  omega

end Sys2Proof.Machine
end

section
/-! PROOFS. The reset state and `Construct` (`10_state.md` R29, R45, `70_reset_and_hazards.md` R210). -/

namespace Sys2Proof.Machine

variable {c : Config}

/-- Settles O20: the layout is a closed list of numbers. -/
theorem parametersAreLegal : Obligations.ParametersAreLegal := by
  unfold Obligations.ParametersAreLegal
  decide

theorem program_fits (hlegal : legalConfig c) {p : List Byte} (hp : p.length ≤ programMax c) :
    c.programBase + p.length ≤ memSize := by
  obtain ⟨-, -, hbase, -⟩ := hlegal
  have hend : programEnd c ≤ memSize := min_le_left _ _
  simp only [programMax, memSize] at *
  omega

theorem resetWith_pc_toNat (hlegal : legalConfig c) : (State.resetWith c).pc.toNat = c.programBase := by
  obtain ⟨-, -, hbase, -⟩ := hlegal
  simp only [State.resetWith, BitVec.toNat_ofNat]
  omega

/-- The reset state at any legal choice of the parameters has the invariant (R29, R30). -/
theorem resetWith_inv (hlegal : legalConfig c) : Inv (State.resetWith c) := by
  have hpc := resetWith_pc_toNat hlegal
  obtain ⟨-, -, hbase, -⟩ := id hlegal
  refine ⟨hlegal, ⟨List.length_replicate, rfl, Nat.zero_le _⟩, ⟨le_rfl, ?_⟩, ?_, ⟨by omega, ?_⟩,
    Memory.wf_nil⟩
  · change (0 : Rat) < 1 / 60
    norm_num
  · exact fun h => Bool.false_ne_true h.1
  · intro ret hret
    rw [List.eq_of_mem_replicate hret]
    exact Nat.zero_le _

/-- The font lies apart from the video region, so that is zero after reset. -/
theorem resetByte_inVideo (hlegal : legalConfig c) {a : Nat} (ha : inVideo c a) : resetByte c a = 0 := by
  obtain ⟨-, -, -, hapart, -⟩ := hlegal
  simp only [apart, inVideo, videoSize] at hapart ha
  rw [resetByte, if_neg (by omega)]

/-- Settles O21: the reset values meet the invariant at every legal choice of the parameters. -/
theorem resetHasTheInvariant : Obligations.ResetHasTheInvariant := by
  unfold Obligations.ResetHasTheInvariant
  exact ⟨resetWith_inv parametersAreLegal.1, rfl,
    fun c hlegal => ⟨resetWith_inv hlegal, fun a ha => resetByte_inVideo hlegal ha⟩⟩

theorem constructed_mem_wf (hlegal : legalConfig c) {p : List Byte} (hp : p.length ≤ programMax c) :
    (State.constructed c p).mem.wf c :=
  stored_wf (State.resetWith c) resetWith_mem_wf (program_fits hlegal hp)

theorem constructed_byte (hlegal : legalConfig c) {p : List Byte} (hp : p.length ≤ programMax c) (a : Nat) :
    (State.constructed c p).byte a =
      if c.programBase ≤ a ∧ a < c.programBase + p.length then p.getD (a - c.programBase) 0 else resetByte c a :=
  get_stored (State.resetWith c) resetWith_mem_wf (program_fits hlegal hp) a

theorem constructed_inv (hlegal : legalConfig c) {p : List Byte} (hp : p.length ≤ programMax c) :
    Inv (State.constructed c p) := by
  obtain ⟨_, hstack, hacc, hlatch, hpc, -⟩ := resetWith_inv hlegal
  exact ⟨hlegal, hstack, hacc, hlatch, hpc, constructed_mem_wf hlegal hp⟩

theorem constructed_reg (p : List Byte) (q : RegIdx) : (State.constructed c p).reg q = 0 :=
  Vector.getElem_replicate q.isLt

theorem constructed_key (p : List Byte) (k : Fin 16) : (State.constructed c p).keys.get k = false :=
  Vector.getElem_replicate k.isLt

theorem constructed_entry (p : List Byte) (j : Nat) : (State.constructed c p).entry j = 0 := by
  change (List.replicate c.stackDepth (0 : Word)).getD j 0 = 0
  rw [List.getD_eq_getElem?_getD, List.getElem?_replicate]
  split <;> rfl

/-- Settles O18: the machine is the reset state with the program stored over its empty memory. -/
theorem constructBuildsTheResetState : Obligations.ConstructBuildsTheResetState := by
  unfold Obligations.ConstructBuildsTheResetState
  intro s p hlegal hev hp
  have hstep := construct_of_fits (p := p) (s := s.eventTaken) (by rwa [eventTaken_cfg])
  rw [← step_of_construct hev, eventTaken_cfg] at hstep
  exact ⟨_, hstep, rfl, constructed_reg (c := s.cfg) p, rfl, resetWith_pc_toNat hlegal, rfl,
    ⟨List.length_replicate, constructed_entry (c := s.cfg) p⟩, fun a _ => constructed_byte hlegal hp a, rfl, rfl,
    constructed_key (c := s.cfg) p, rfl, rfl, rfl, rfl, rfl, constructed_mem_wf hlegal hp⟩

end Sys2Proof.Machine
end

section
/-! PROOFS. The invariant, kept by every effect, every `Advance` and every event (`10_state.md` R14, R30). -/

namespace Sys2Proof.Machine

variable {s t : State}

/-- The invariant speaks of no more than these fields. -/
theorem Inv.of_same (h : Inv s) (hcfg : t.cfg = s.cfg) (hstack : t.stack = s.stack) (hsp : t.sp = s.sp)
    (hacc : t.acc = s.acc) (hlatch : LatchInv t) (hpc : t.pc.toNat ≤ 0x10FE) (hmem : t.mem = s.mem) : Inv t := by
  obtain ⟨h1, h2, h3, -, h5, h6⟩ := h
  refine ⟨by rwa [hcfg], ?_, ?_, hlatch, ⟨hpc, ?_⟩, by rwa [hcfg, hmem]⟩
  · rwa [StackInv, hcfg, hstack, hsp]
  · rwa [AccInv, hacc]
  · rw [hstack]
    exact h5.2

theorem latchInv_of_running (hw : s.waiting = false) : LatchInv s := fun h => by simp [hw] at h

/-- A state in which an instruction may execute: the invariant, no fault, no wait, and `pc` and the address of the
instruction no further than the end of memory. -/
structure Executing (s : State) : Prop where
  inv : Inv s
  unfaulted : s.fault = none
  running : s.waiting = false
  pc : s.pc.toNat ≤ memSize
  addr : s.curAddr.toNat ≤ memSize

theorem call_inv {nnn : BitVec 12} (h : Executing s) (hroom : s.sp.toNat ≠ 2 * s.cfg.stackDepth) :
    Inv (s.pushPc.setPc (zextNNN nnn)) := by
  obtain ⟨⟨hlegal, hstack, hacc, hlatch, ⟨-, hret⟩, hmem⟩, -, -, hpc, -⟩ := h
  obtain ⟨hsp, hle⟩ := push_sp_toNat hlegal hstack hroom
  obtain ⟨hlen, heven, -⟩ := hstack
  have hnnn := nnn.isLt
  refine ⟨hlegal, ⟨?_, ?_, ?_⟩, hacc, hlatch, ⟨?_, fun ret hmem => ?_⟩, hmem⟩
  · rw [setPc_stack, pushPc_stack, List.length_set]
    exact hlen
  · rw [setPc_sp, pushPc_sp, hsp]; omega
  · rw [setPc_sp, pushPc_sp, hsp]
    exact hle
  · rw [setPc_pc, zextNNN_toNat]; omega
  · rcases List.mem_or_eq_of_mem_set hmem with hold | rfl
    · exact hret ret hold
    · exact hpc

theorem ret_inv (h : Inv s) (hused : s.sp ≠ 0) : Inv s.popPc := by
  obtain ⟨hlegal, hstack, hacc, hlatch, ⟨-, hret⟩, hmem⟩ := h
  have hsp := pop_sp_toNat (two_le_sp hstack hused)
  obtain ⟨hlen, heven, hle⟩ := hstack
  refine ⟨hlegal, ⟨hlen, ?_, ?_⟩, hacc, hlatch, ⟨?_, hret⟩, hmem⟩
  · rw [popPc_sp, hsp]; omega
  · rw [popPc_sp, hsp]
    change _ ≤ 2 * s.cfg.stackDepth
    omega
  · exact (entry_le s hret _).trans (by decide)

/-- A change of memory keeps the invariant when it keeps the canonical form. -/
theorem setMem_inv (h : Inv s) {m : Memory} (hm : m.wf s.cfg) : Inv (s.setMem m) := by
  obtain ⟨hlegal, hstack, hacc, hlatch, hpc, -⟩ := h
  exact ⟨hlegal, hstack, hacc, hlatch, hpc, hm⟩

theorem setReg_inv (h : Inv s) (q : RegIdx) (v : Byte) : Inv (s.setReg q v) :=
  h.of_same rfl rfl rfl rfl h.latch h.pc.1 rfl

theorem setDirty_inv (h : Inv s) (v : Bool) : Inv (s.setDirty v) := h.of_same rfl rfl rfl rfl h.latch h.pc.1 rfl

/-- EVERY INSTRUCTION KEEPS THE INVARIANT. -/
theorem Effect.inv {i : Instr} (h : Effect i s t) (hs : Executing s) : Inv t := by
  obtain ⟨hinv, hf, hw, hpc, haddr⟩ := id hs
  have hpc' : s.pc.toNat ≤ 0x10FE := hpc.trans (by decide)
  have hlatch : LatchInv s := hinv.latch
  have hmem := hinv.mem
  cases h with
  | nothing => exact hinv
  | reg => exact setReg_inv hinv _ _
  | regAndFlag | load | index | timer => exact hinv.of_same rfl rfl rfl rfl hlatch hpc' rfl
  | wait => exact hinv.of_same rfl rfl rfl rfl (fun h => h.2 hf) hpc' rfl
  | jump _ ha => exact hinv.of_same rfl rfl rfl rfl hlatch ha rfl
  | @skip cond =>
    cases cond with
    | false => exact hinv
    | true =>
      refine hinv.of_same rfl rfl rfl rfl hlatch ?_ rfl
      rw [skipIf_pc, if_pos rfl, BitVec.toNat_add]
      change (s.pc.toNat + 2) % 65536 ≤ _
      simp only [memSize] at hpc
      omega
  | call _ hroom => exact call_inv hs hroom
  | ret _ hused => exact ret_inv hinv hused
  | store _ hin => exact setMem_inv hinv (stored_wf s hmem hin)
  | clear =>
    have hin : s.cfg.videoBase + (List.replicate videoSize (0 : Byte)).length ≤ memSize := by
      rw [List.length_replicate]
      exact legal_video hinv.legal
    exact setDirty_inv (setMem_inv hinv (stored_wf s hmem hin)) true
  | @draw x y n =>
    exact setDirty_inv (setReg_inv (setMem_inv hinv (drawn_keeps hinv.legal hmem x y n.val).1) _ _) true
  | latch =>
    exact hinv.of_same rfl rfl rfl rfl (latchInv_of_running hw) (haddr.trans (by decide)) rfl

theorem Ran.inv {b : Byte} (h : Ran s b t) (hs : Inv s) (hf : s.fault = none) (hw : s.waiting = false) : Inv t := by
  have hpc := hs.pc.1
  cases h with
  | fetchFault => exact hs.of_same rfl rfl rfl rfl (latchInv_of_running hw) hpc rfl
  | unknown => exact hs.of_same rfl rfl rfl rfl (latchInv_of_running hw) hpc rfl
  | executed hin heffect =>
    have hnext : (s.latch b).fetched.pc.toNat ≤ memSize := by
      rw [fetched_pc, latch_pc, BitVec.toNat_add]
      change (s.pc.toNat + 2) % 65536 ≤ _
      simp only [memSize] at *
      omega
    refine heffect.inv ⟨?_, hf, hw, hnext, Nat.le_of_add_right_le hin⟩
    exact hs.of_same rfl rfl rfl rfl (latchInv_of_running hw) (hnext.trans (by decide)) rfl

theorem timerStep_inv (h : Inv s) {e : Rat} (he : 0 ≤ e) : Inv (s.timerStep e) := by
  obtain ⟨hlegal, hstack, hacc, hlatch, hpc, hmem⟩ := h
  exact ⟨hlegal, hstack, timerStep_accInv (add_nonneg hacc.1 he), hlatch, hpc, hmem⟩

/-- Nothing in the invariant depends on the answer. -/
theorem answer_inv (h : Inv s) (r : Reply) : Inv (s.answer r) := h.of_same rfl rfl rfl rfl h.latch h.pc.1 rfl

theorem report_inv (h : Inv s) : Inv s.report := answer_inv h _

theorem Advanced.inv {e : Rat} {b : Byte} (h : Advanced s e b t) (hs : Inv s) : Inv t := by
  cases h with
  | refused => exact answer_inv hs _
  | latched => exact answer_inv hs _
  | waiting he => exact report_inv (timerStep_inv hs he)
  | running he hf hw hran => exact report_inv (hran.inv (timerStep_inv hs he) hf hw)

theorem keyEvent_inv (h : Inv s) (k : Fin 16) (pressed : Bool) : Inv (s.keyEvent k pressed) := by
  by_cases hedge : PressEdge s k pressed
  · rw [keyEvent_of_pressEdge hedge]
    exact h.of_same rfl rfl rfl rfl (latchInv_of_running rfl) h.pc.1 rfl
  · rw [keyEvent_of_not_pressEdge hedge]
    exact h.of_same rfl rfl rfl rfl h.latch h.pc.1 rfl

theorem Happens.inv {ev : Event} (h : Happens s ev t) (hs : Inv s) : Inv t := by
  cases h with
  | advance h => exact h.inv hs
  | invalidKey => exact answer_inv hs _
  | key => exact answer_inv (keyEvent_inv hs _ _) _
  | readFrame => exact answer_inv hs _
  | clearDirty => exact answer_inv (setDirty_inv hs false) _
  | construct hp =>
    have hmade := constructed_inv hs.legal hp
    exact hmade.of_same rfl rfl rfl rfl hmade.latch hmade.pc.1 rfl

theorem eventTaken_inv (h : Inv s) : Inv s.eventTaken := by
  refine h.of_same (eventTaken_cfg s) (eventTaken_stack s) (eventTaken_sp s) (eventTaken_acc s) ?_ ?_ (eventTaken_mem s)
  · rw [LatchInv, eventTaken_waiting, eventTaken_fault]
    exact h.latch
  · rw [eventTaken_pc]
    exact h.pc.1

/-- Settles O22: taking the event keeps the invariant, and so does everything that can happen then. -/
theorem stepKeepsTheInvariant : Obligations.StepKeepsTheInvariant := by
  unfold Obligations.StepKeepsTheInvariant
  exact fun s t hs hstep => (happens_of_step hstep).inv (eventTaken_inv hs)

end Sys2Proof.Machine
end

section
/-! PROOFS. The timer (`60_exceptions.md` R191). -/

namespace Sys2Proof.Machine

/-- A time holds one more than `n` ticks exactly when it is that long; a negative time holds none. -/
theorem succ_le_ticksIn_iff (t : Rat) (n : Nat) : n + 1 ≤ ticksIn t ↔ ((n + 1 : Nat) : Rat) / 60 ≤ t := by
  have h1 : n + 1 ≤ ticksIn t ↔ ((n + 1 : Nat) : Int) ≤ (60 * t).floor := by
    unfold ticksIn; omega
  rw [h1, Rat.le_floor_iff, div_le_iff₀ (by norm_num), mul_comm]
  rfl

theorem ticksIn_eq_zero {t : Rat} (h : t < 1 / 60) : ticksIn t = 0 := by
  have h1 : ¬ 0 + 1 ≤ ticksIn t := by
    rw [succ_le_ticksIn_iff]
    push_cast
    linarith
  omega

/-- Taking `n` whole ticks from a time that holds them leaves the others. -/
theorem ticksIn_sub {t : Rat} {n : Nat} (h : (n : Rat) / 60 ≤ t) : ticksIn (t - n / 60) + n = ticksIn t := by
  have ht : 0 ≤ t := le_trans (by positivity) h
  have hshift (k : Nat) : k ≤ ticksIn (t - n / 60) ↔ k + n ≤ ticksIn t := by
    rw [ticksIn_le_iff (sub_nonneg.2 h), ticksIn_le_iff ht]
    push_cast
    constructor <;> intro hk <;> linarith
  have hn : n ≤ ticksIn t := (ticksIn_le_iff ht n).2 h
  have h1 := (hshift _).1 le_rfl
  have h2 := (hshift (ticksIn t - n)).2 (by omega)
  omega

/-- The state in which the accumulator's whole ticks have been counted down from the timer. -/
def State.ticked (s : State) : State :=
  { s with dt := BitVec.ofNat 8 (s.dt.toNat - ticksIn s.acc), acc := s.acc - ticksIn s.acc / 60 }

theorem timerStep_eq_ticked (s : State) (e : Rat) : s.timerStep e = { s with acc := s.acc + e }.ticked := rfl

theorem ticked_of_no_tick {s : State} (h : s.acc < 1 / 60) : s.ticked = s := by
  simp [State.ticked, ticksIn_eq_zero h]

theorem tickOnce_of_no_tick {s : State} (h : s.acc < 1 / 60) : s.tickOnce = s := by
  rw [State.tickOnce, if_neg (not_le.2 h)]

theorem tickOnce_of_tick {s : State} (h : 1 / 60 ≤ s.acc) :
    s.tickOnce = { s with dt := if s.dt = 0 then 0 else s.dt - 1, acc := s.acc - 1 / 60 } := by
  rw [State.tickOnce, if_pos h]

theorem ticksIn_tickOnce {s : State} (h : 1 / 60 ≤ s.acc) : ticksIn s.tickOnce.acc + 1 = ticksIn s.acc := by
  have hone := ticksIn_sub (n := 1) (by simpa using h)
  simpa [tickOnce_of_tick h] using hone

/-- Counting down one tick and then the rest is counting down all. -/
theorem ticked_tickOnce {s : State} (h : 1 / 60 ≤ s.acc) : s.tickOnce.ticked = s.ticked := by
  have hticks := ticksIn_tickOnce h
  have honce := tickOnce_of_tick h
  have hdt : s.tickOnce.dt.toNat = s.dt.toNat - 1 := by
    rw [honce]
    by_cases h0 : s.dt = 0
    · simp [h0]
    · have hpos : 1 ≤ s.dt.toNat := Nat.one_le_iff_ne_zero.2 fun h => h0 (BitVec.eq_of_toNat_eq h)
      rw [if_neg h0]
      exact BitVec.toNat_sub_of_le (BitVec.le_def.2 hpos)
  have hdt' : s.tickOnce.dt.toNat - ticksIn s.tickOnce.acc = s.dt.toNat - ticksIn s.acc := by omega
  have hacc : s.tickOnce.acc - ticksIn s.tickOnce.acc / 60 = s.acc - ticksIn s.acc / 60 := by
    rw [← hticks, honce]
    push_cast
    ring
  simp only [State.ticked, hdt', hacc]
  rw [honce]

/-- Once there are turns enough for the accumulator's ticks, the loop has counted them down. -/
theorem tickLoop_eq_ticked {s : State} {fuel : Nat} (h : ticksIn s.acc ≤ fuel) : s.tickLoop fuel = s.ticked := by
  induction fuel generalizing s with
  | zero =>
    have hno : s.acc < 1 / 60 := by
      by_contra htick
      have := ticksIn_tickOnce (not_lt.1 htick)
      omega
    rw [ticked_of_no_tick hno, State.tickLoop]
  | succ k ih =>
    rw [State.tickLoop]
    rcases lt_or_ge s.acc (1 / 60) with hno | htick
    · rw [tickOnce_of_no_tick hno, ih (by rw [ticksIn_eq_zero hno]; omega)]
    · have := ticksIn_tickOnce htick
      rw [ih (by omega), ticked_tickOnce htick]

/-- Settles O12, by induction on the number of turns. -/
theorem timerStepIsTheWhileLoop : Obligations.TimerStepIsTheWhileLoop := by
  unfold Obligations.TimerStepIsTheWhileLoop
  intro s e fuel h
  rw [timerStep_eq_ticked]
  exact tickLoop_eq_ticked h

theorem timerStep_dt_toNat (s : State) (e : Rat) : (s.timerStep e).dt.toNat = s.dt.toNat - ticksIn (s.acc + e) := by
  have := s.dt.isLt
  rw [timerStep_dt, BitVec.toNat_ofNat]
  omega

/-- Settles O13: the ticks of the two steps add up to those of the whole time. -/
theorem timerStepsAddUp : Obligations.TimerStepsAddUp := by
  unfold Obligations.TimerStepsAddUp
  intro s d e hacc hd he
  refine ⟨?_, timerStep_dt_toNat s d⟩
  have hle : (ticksIn (s.acc + d) : Rat) / 60 ≤ s.acc + (d + e) :=
    le_trans ((ticksIn_le_iff (add_nonneg hacc hd) _).1 le_rfl) (by linarith)
  have hrest : (s.timerStep d).acc + e = s.acc + (d + e) - ticksIn (s.acc + d) / 60 := by
    rw [timerStep_acc]
    ring
  have hticks := ticksIn_sub hle
  rw [← hrest] at hticks
  have hdt : (s.timerStep d).dt.toNat - ticksIn ((s.timerStep d).acc + e) =
      s.dt.toNat - ticksIn (s.acc + (d + e)) := by
    rw [timerStep_dt_toNat]
    omega
  have hend : (s.timerStep d).acc + e - ticksIn ((s.timerStep d).acc + e) / 60 =
      s.acc + (d + e) - ticksIn (s.acc + (d + e)) / 60 := by
    rw [← hticks, timerStep_acc]
    push_cast
    ring
  calc (s.timerStep d).timerStep e
    _ = { s with
          dt := BitVec.ofNat 8 ((s.timerStep d).dt.toNat - ticksIn ((s.timerStep d).acc + e))
          acc := (s.timerStep d).acc + e - ticksIn ((s.timerStep d).acc + e) / 60 } := rfl
    _ = { s with
          dt := BitVec.ofNat 8 (s.dt.toNat - ticksIn (s.acc + (d + e)))
          acc := s.acc + (d + e) - ticksIn (s.acc + (d + e)) / 60 } := by rw [hdt, hend]
    _ = s.timerStep (d + e) := rfl

end Sys2Proof.Machine
end

section
/-! PROOFS. Group 0: NOP, CLS, RET, and CALL with the stack (`40_group0_system.md`, `41_jump_call.md`). -/

namespace Sys2Proof.Machine

theorem decode_nop (c : Config) {w : Word} (hg : fieldG w = 0) (hnn : fieldNN w = 0x00) :
    decode c w = some .nop := by
  rw [decode_of_fieldG_eq_zero c hg, dispatch0, if_pos hnn]

theorem decode_cls (c : Config) {w : Word} (hg : fieldG w = 0) (hnn : fieldNN w = 0xE0) :
    decode c w = some .cls := by
  rw [decode_of_fieldG_eq_zero c hg]
  simp [dispatch0, hnn]

theorem decode_ret (c : Config) {w : Word} (hg : fieldG w = 0) (hnn : fieldNN w = 0xEE) :
    decode c w = some .ret := by
  rw [decode_of_fieldG_eq_zero c hg]
  simp [dispatch0, hnn]

/-- A member of `TONE_NOP_NN` is none of the sub-opcodes the table fixes (R67), so it decodes to its setter. -/
theorem decode_toneSetter {c : Config} (hlegal : legalConfig c) {w : Word} (hg : fieldG w = 0xF)
    (hmem : fieldNN w ∈ c.toneNopNN) : decode c w = some (toneSetter (fieldNN w)) := by
  obtain ⟨-, -, -, -, -, -, -, hfree, -⟩ := hlegal
  rw [decode_of_fieldG_eq_fifteen c hg, dispatchF_of_not_fixed (hfree _ hmem), if_pos (List.contains_iff_mem.2 hmem)]

/-- Settles O28: the decoder's arms for NOP and the setters, and four effects that are `nothing`. -/
theorem noOperationsChangeNothing : Obligations.NoOperationsChangeNothing := by
  unfold Obligations.NoOperationsChangeNothing
  exact ⟨fun c _ => decode_nop c, fun _ _ hlegal => decode_toneSetter hlegal, toneSetter_eq_pitch_iff,
    toneSetter_eq_tone_iff, fun _ _ => ⟨rfl, rfl, rfl, rfl⟩⟩

/-- Settles O29: CLS stores 256 zero bytes from `VIDEO_BASE`. -/
theorem clsZeroesTheVideoRegion : Obligations.ClsZeroesTheVideoRegion := by
  unfold Obligations.ClsZeroesTheVideoRegion
  refine ⟨fun c _ => decode_cls c, fun s hlegal hwf => ?_⟩
  have hget := get_cleared s hlegal hwf
  rw [exec_cls]
  generalize s.stored _ _ = m at hget
  exact ⟨(s.setMem m).setDirty true, rfl, hget, rfl, rfl⟩

theorem exec_ret_of_used {s : State} (h : s.sp ≠ 0) : exec .ret s = .next s.popPc :=
  congrArg Host.Outcome.next (if_neg h)

theorem exec_ret_of_empty {s : State} (h : s.sp = 0) : exec .ret s = .next (s.raiseExec .stackUnderflow none) :=
  congrArg Host.Outcome.next (if_pos h)

/-- Settles O30: with an entry in use RET is the pop, with none the fault. -/
theorem retPopsPcOrUnderflows : Obligations.RetPopsPcOrUnderflows := by
  unfold Obligations.RetPopsPcOrUnderflows
  refine ⟨fun c _ => decode_ret c, fun s => ⟨fun j _ hsp => ?_, exec_ret_of_empty⟩⟩
  have hused : s.sp ≠ 0 := by
    rintro h
    rw [h] at hsp
    cases hsp
  have hpop : (s.sp - 2).toNat = 2 * j := by
    rw [pop_sp_toNat (by omega)]; omega
  refine ⟨s.popPc, exec_ret_of_used hused, hpop, ?_, rfl⟩
  rw [popPc_pc, hpop, Nat.mul_div_cancel_left j (by decide)]

theorem exec_call_of_room {s : State} (nnn : BitVec 12) (h : s.sp.toNat ≠ 2 * s.cfg.stackDepth) :
    exec (.call nnn) s = .next (s.pushPc.setPc (zextNNN nnn)) :=
  congrArg Host.Outcome.next (if_neg h)

theorem exec_call_of_full {s : State} (nnn : BitVec 12) (h : s.sp.toNat = 2 * s.cfg.stackDepth) :
    exec (.call nnn) s = .next (s.raiseExec .stackOverflow none) :=
  congrArg Host.Outcome.next (if_pos h)

/-- With room, the entry that `sp` points at is inside the array (R17). -/
theorem stackTop_lt {s : State} (hinv : StackInv s) (hroom : s.sp.toNat < 2 * s.cfg.stackDepth) :
    s.stackTop < s.stack.length := by
  obtain ⟨hlen, -, -⟩ := hinv
  rw [State.stackTop, hlen]; omega

/-- Settles O32: with room CALL is the push and the jump, on a full stack the fault. -/
theorem callPushesPcOrOverflows : Obligations.CallPushesPcOrOverflows := by
  unfold Obligations.CallPushesPcOrOverflows
  refine ⟨fun c _ => decode_of_fieldG_eq_two c,
    fun nnn s hlegal hinv => ⟨fun j hj hsp => ?_, exec_call_of_full nnn⟩⟩
  have hroom : s.sp.toNat < 2 * s.cfg.stackDepth := by omega
  have htop : s.stackTop = j := by rw [State.stackTop, hsp, Nat.mul_div_cancel_left j (by decide)]
  have hentry := pushPc_entry s (stackTop_lt hinv hroom)
  rw [htop] at hentry
  refine ⟨s.pushPc.setPc (zextNNN nnn), exec_call_of_room nnn hroom.ne, ?_, ?_, fun k hk => ?_, ?_, zextNNN_toNat nnn,
    rfl⟩
  · rw [setPc_sp, pushPc_sp, (push_sp_toNat hlegal hinv hroom.ne).1]; omega
  · exact (hentry j).trans (if_pos rfl)
  · exact (hentry k).trans (if_neg hk)
  · rw [setPc_stack, pushPc_stack, List.length_set]

/-- Settles O34: the pop reads the entry the push wrote, and the two changes of `sp` cancel. -/
theorem retReturnsToTheInstructionAfterTheCall : Obligations.RetReturnsToTheInstructionAfterTheCall := by
  unfold Obligations.RetReturnsToTheInstructionAfterTheCall
  intro nnn s t u hlegal hinv hroom hcall husp hustack
  rw [exec_call_of_room nnn hroom.ne] at hcall
  cases hcall
  have husp : u.sp = s.sp + 2 := husp
  have hback : u.sp - 2 = s.sp := by rw [husp, BitVec.add_sub_cancel]
  have hused : u.sp ≠ 0 := by
    intro h
    have hpush := (push_sp_toNat hlegal hinv hroom.ne).1
    rw [← husp, h] at hpush
    cases hpush
  refine ⟨u.popPc, exec_ret_of_used hused, ?_, hback⟩
  rw [popPc_pc, hback]
  calc u.entry (s.sp.toNat / 2)
    _ = s.pushPc.entry s.stackTop := congrArg (fun l => l.getD s.stackTop 0) hustack
    _ = s.pc := by rw [pushPc_entry s (stackTop_lt hinv hroom), if_pos rfl]

/-- Settles O33: the 16-bit sum of the zero-extended operands does not wrap. -/
theorem jpV0AddsRegisterZero : Obligations.JpV0AddsRegisterZero := by
  unfold Obligations.JpV0AddsRegisterZero
  exact ⟨fun c _ => decode_of_fieldG_eq_eleven c, fun nnn s => ⟨s.setPc (zextNNN nnn + zextByte (s.reg 0)), rfl,
    zextNNN_add_zextByte_toNat nnn (s.reg 0), rfl⟩⟩

/-- Settles O36: each is one `skipIf`, and groups 5 and 9 test their low nibble. -/
theorem registerSkips : Obligations.RegisterSkips := by
  unfold Obligations.RegisterSkips
  refine ⟨fun c _ => decode_of_fieldG_eq_five c, fun c _ => decode_of_fieldG_eq_nine c, fun x y s => ⟨?_, ?_⟩⟩
  · exact skipsWhen_of_exec_eq_skipIf (c := s.reg x == s.reg y) rfl beq_iff_eq
  · exact skipsWhen_of_exec_eq_skipIf (c := s.reg x != s.reg y) rfl bne_iff_ne

end Sys2Proof.Machine
end

section
/-! PROOFS. The flag-writing arithmetic of group 8 (`44_alu.md` R115, R120 to R124). -/

namespace Sys2Proof.Machine

/-- The form that the five flag-writing instructions share: when the effect is one `setFlagThenReg`, the result is in its
register, and the flag in VF unless the result went there (R115). -/
theorem writesRegAndFlag_of_exec {i : Instr} {s : State} {r : RegIdx} {v : Byte} {f : Bool} {cond : Prop}
    (hexec : exec i s = .next (s.setFlagThenReg f r v)) (hf : f = true ↔ cond) : WritesRegAndFlag i s r v cond := by
  have hflag (hr : r ≠ 15) : (s.setFlagThenReg f r v).reg 15 = flagByte f := by
    rw [setFlagThenReg_reg, if_neg hr.symm]
    exact if_pos rfl
  refine ⟨s.setFlagThenReg f r v, hexec, ?_, fun hr => ⟨fun h => ?_, fun h => ?_⟩, fun q hqr hq15 => ?_, rfl⟩
  · rw [setFlagThenReg_reg, if_pos rfl]
  · rw [hflag hr, hf.2 h]
    rfl
  · rw [hflag hr, Bool.eq_false_iff.2 (mt hf.1 h)]
    rfl
  · rw [setFlagThenReg_reg, if_neg hqr]
    exact if_neg hq15

/-- The machine's byte difference is the difference modulo 256 (R112). -/
theorem sub8_eq_ofNat_mod (a b : Byte) : sub8 a b = BitVec.ofNat 8 ((a.toNat + 256 - b.toNat) % 256) := by
  apply BitVec.eq_of_toNat_eq
  rw [sub8, BitVec.toNat_ofNat, BitVec.toNat_ofNat]
  exact (Nat.mod_mod _ 256).symm

theorem shr8_eq_ushiftRight (a : Byte) : shr8 a = a >>> 1 := by
  have := a.isLt
  apply BitVec.eq_of_toNat_eq
  rw [shr8, BitVec.toNat_ofNat, BitVec.toNat_ushiftRight, Nat.shiftRight_eq_div_pow]
  omega

theorem shl8_eq_shiftLeft (a : Byte) : shl8 a = a <<< 1 := by
  apply BitVec.eq_of_toNat_eq
  rw [shl8, BitVec.toNat_ofNat, BitVec.toNat_shiftLeft, Nat.shiftLeft_eq]

theorem lowBit_iff (a : Byte) : lowBit a = true ↔ a.toNat % 2 = 1 := by
  rw [lowBit, BitVec.getLsbD, Nat.testBit_zero, decide_eq_true_iff]

theorem highBit_iff (a : Byte) : highBit a = true ↔ a.toNat ≥ 128 := by
  have := a.isLt
  rw [highBit, BitVec.getLsbD, Nat.testBit_eq_decide_div_mod_eq, decide_eq_true_iff]
  omega

/-- Settles O39: each is one `setFlagThenReg` of the machine's sum or difference and its carry or borrow. -/
theorem registerAddAndSubtract : Obligations.RegisterAddAndSubtract := by
  unfold Obligations.RegisterAddAndSubtract
  constructor
  · intro c w hg
    rw [decode_of_fieldG_eq_eight c hg]
    exact ⟨dispatch8_of_fieldN_eq_four, dispatch8_of_fieldN_eq_five, dispatch8_of_fieldN_eq_seven⟩
  · rintro x y s _ _ rfl rfl
    rw [← add8_eq_ofNat_mod, ← sub8_eq_ofNat_mod, ← sub8_eq_ofNat_mod]
    exact ⟨writesRegAndFlag_of_exec (f := carryOut (s.reg x) (s.reg y)) rfl decide_eq_true_iff,
      writesRegAndFlag_of_exec (f := noBorrow (s.reg x) (s.reg y)) rfl decide_eq_true_iff,
      writesRegAndFlag_of_exec (f := noBorrow (s.reg y) (s.reg x)) rfl decide_eq_true_iff⟩

/-- Settles O40: each is one `setFlagThenReg` of the shifted register and the bit shifted out. -/
theorem shifts : Obligations.Shifts := by
  unfold Obligations.Shifts
  constructor
  · intro c w hg
    rw [decode_of_fieldG_eq_eight c hg]
    exact ⟨dispatch8_of_fieldN_eq_six, dispatch8_of_fieldN_eq_fourteen⟩
  · intro x s
    rw [← shr8_eq_ushiftRight, ← shl8_eq_shiftLeft]
    exact ⟨writesRegAndFlag_of_exec (f := lowBit (s.reg x)) rfl (lowBit_iff _),
      writesRegAndFlag_of_exec (f := highBit (s.reg x)) rfl (highBit_iff _)⟩

end Sys2Proof.Machine
end

section
/-! PROOFS. The unsupported instructions, the timer, the index and the key wait (`47_key.md`, `48_group_f.md`). -/

namespace Sys2Proof.Machine

theorem decode_skp (c : Config) {w : Word} (hg : fieldG w = 0xE) (hnn : fieldNN w = 0x9E) :
    decode c w = some (.skp (fieldX w)) := by
  rw [decode_of_fieldG_eq_fourteen c hg]
  simp [dispatchE, hnn]

theorem decode_sknp (c : Config) {w : Word} (hg : fieldG w = 0xE) (hnn : fieldNN w = 0xA1) :
    decode c w = some (.sknp (fieldX w)) := by
  rw [decode_of_fieldG_eq_fourteen c hg]
  simp [dispatchE, hnn]

section
variable (c : Config) {w : Word} (hg : fieldG w = 0xF)
include hg

theorem decode_stop (hnn : fieldNN w = 0x00) : decode c w = some .stop := by
  rw [decode_of_fieldG_eq_fifteen c hg]
  simp [dispatchF, hnn]

theorem decode_ldVxK (hnn : fieldNN w = 0x0A) : decode c w = some (.ldVxK (fieldX w)) := by
  rw [decode_of_fieldG_eq_fifteen c hg]
  simp [dispatchF, hnn]

theorem decode_ldDTVx (hnn : fieldNN w = 0x15) : decode c w = some (.ldDTVx (fieldX w)) := by
  rw [decode_of_fieldG_eq_fifteen c hg]
  simp [dispatchF, hnn]

theorem decode_addI (hnn : fieldNN w = 0x1E) : decode c w = some (.addI (fieldX w)) := by
  rw [decode_of_fieldG_eq_fifteen c hg]
  simp [dispatchF, hnn]

theorem decode_ldF (hnn : fieldNN w = 0x29) : decode c w = some (.ldF (fieldX w)) := by
  rw [decode_of_fieldG_eq_fifteen c hg]
  simp [dispatchF, hnn]

theorem decode_ldB (hnn : fieldNN w = 0x33) : decode c w = some (.ldB (fieldX w)) := by
  rw [decode_of_fieldG_eq_fifteen c hg]
  simp [dispatchF, hnn]

theorem decode_storeRegs (hnn : fieldNN w = 0x55) : decode c w = some (.storeRegs (fieldX w)) := by
  rw [decode_of_fieldG_eq_fifteen c hg]
  simp [dispatchF, hnn]

theorem decode_loadRegs (hnn : fieldNN w = 0x65) : decode c w = some (.loadRegs (fieldX w)) := by
  rw [decode_of_fieldG_eq_fifteen c hg]
  simp [dispatchF, hnn]

end

/-- Settles O47: the whole meaning of the three is the fault. -/
theorem unsupportedInstructionsLatchNotImplemented : Obligations.UnsupportedInstructionsLatchNotImplemented := by
  unfold Obligations.UnsupportedInstructionsLatchNotImplemented
  exact ⟨fun c _ => decode_skp c, fun c _ => decode_sknp c, fun c _ => decode_stop c, fun _ _ => ⟨rfl, rfl, rfl⟩⟩

/-- Settles O46: the whole meaning of LD Vx,K is the record of its register and the wait. -/
theorem ldVxKEntersTheKeyWait : Obligations.LdVxKEntersTheKeyWait := by
  unfold Obligations.LdVxKEntersTheKeyWait
  exact ⟨fun c _ => decode_ldVxK c, fun _ _ => rfl⟩

/-- Settles O44: LD DT,Vx is the one update `setDt`. -/
theorem ldDtVxSetsTheTimer : Obligations.LdDtVxSetsTheTimer := by
  unfold Obligations.LdDtVxSetsTheTimer
  exact ⟨fun c _ => decode_ldDTVx c, fun x s => ⟨s.setDt (s.reg x), rfl, rfl, rfl⟩⟩

/-- The glyph of any byte, unmasked, has an address that fits 16 bits (R47, R162). -/
theorem glyphAddr_toNat {c : Config} (hlegal : legalConfig c) (d : Byte) :
    (glyphAddr c d).toNat = c.fontBase + 5 * d.toNat := by
  obtain ⟨hfont, -⟩ := hlegal
  have := d.isLt
  simp only [memSize] at hfont
  simp only [glyphAddr, BitVec.toNat_ofNat]
  omega

/-- The bytes of a digit's glyph after reset are the font's (R45, R46). -/
theorem resetByte_glyph (c : Config) {d : Byte} {k : Nat} (hk : k < 5) (hd : d.toNat < 16) :
    resetByte c (c.fontBase + 5 * d.toNat + k) = c.fontData.getD (5 * d.toNat + k) 0 := by
  rw [resetByte, if_pos (by omega), Nat.add_assoc, Nat.add_sub_cancel_left]

/-- Settles O45: ADD I and LD F are each one `setI`, of the wrapping sum and of the glyph's address. -/
theorem indexArithmetic : Obligations.IndexArithmetic := by
  unfold Obligations.IndexArithmetic
  refine ⟨fun c _ => decode_addI c, fun c _ => decode_ldF c, fun x s => ⟨?_, fun hlegal => ?_⟩⟩
  · refine ⟨s.setI (s.I + zextByte (s.reg x)), rfl, ?_, rfl⟩
    rw [setI_I, BitVec.toNat_add, zextByte_toNat]
  · have hI : (s.setI (glyphAddr s.cfg (s.reg x))).I.toNat = s.cfg.fontBase + 5 * (s.reg x).toNat :=
      glyphAddr_toNat hlegal _
    refine ⟨_, rfl, hI, rfl, fun k hk hd => ?_⟩
    rw [hI]
    exact resetByte_glyph s.cfg hk hd

end Sys2Proof.Machine
end

section
/-! PROOFS. The memory transfers of group F (`48_group_f.md` R164 to R166, `20_memory.md` R54, R56). -/

namespace Sys2Proof.Machine

variable {s : State}

theorem exec_ldB_of_inRange (x : RegIdx) (h : s.I.toNat + 3 ≤ memSize) :
    exec (.ldB x) s = .next (s.setMem (s.stored s.I.toNat (bcdDigits (s.reg x)))) :=
  congrArg Host.Outcome.next (checked_of_inRange s h _)

theorem exec_ldB_of_outOfRange (x : RegIdx) (h : memSize < s.I.toNat + 3) :
    exec (.ldB x) s = .next (s.raiseExec .outOfRange (some (s.I.toNat + 2))) :=
  congrArg Host.Outcome.next (checked_of_outOfRange s h _)

theorem exec_storeRegs_of_inRange {x : RegIdx} (h : s.I.toNat + x.val + 1 ≤ memSize) :
    exec (.storeRegs x) s = .next (s.setMem (s.stored s.I.toNat (s.regsUpTo x))) :=
  congrArg Host.Outcome.next (checked_of_inRange s h _)

theorem exec_storeRegs_of_outOfRange {x : RegIdx} (h : memSize < s.I.toNat + x.val + 1) :
    exec (.storeRegs x) s = .next (s.raiseExec .outOfRange (some (s.I.toNat + x.val))) :=
  congrArg Host.Outcome.next (checked_of_outOfRange s h _)

theorem exec_loadRegs_of_inRange {x : RegIdx} (h : s.I.toNat + x.val + 1 ≤ memSize) :
    exec (.loadRegs x) s = .next { s with x := loadUpTo s.mem s.cfg s.I.toNat x s.x } :=
  congrArg Host.Outcome.next (checked_of_inRange s h _)

theorem exec_loadRegs_of_outOfRange {x : RegIdx} (h : memSize < s.I.toNat + x.val + 1) :
    exec (.loadRegs x) s = .next (s.raiseExec .outOfRange (some (s.I.toNat + x.val))) :=
  congrArg Host.Outcome.next (checked_of_outOfRange s h _)

section
variable (hwf : s.mem.wf s.cfg) {a : Nat} {bs : List Byte} (hin : a + bs.length ≤ memSize)
include hwf hin

theorem get_stored_inside {k : Nat} (hk : k < bs.length) : (s.stored a bs).get s.cfg (a + k) = bs.getD k 0 := by
  rw [get_stored s hwf hin, if_pos (by omega), Nat.add_sub_cancel_left]

theorem get_stored_outside {b : Nat} (hb : b < a ∨ a + bs.length ≤ b) : (s.stored a bs).get s.cfg b = s.byte b := by
  rw [get_stored s hwf hin, if_neg (by omega)]

end

/-- Settles O48: LD B is the store of the three digits, after the range check. -/
theorem ldBStoresDecimalDigits : Obligations.LdBStoresDecimalDigits := by
  unfold Obligations.LdBStoresDecimalDigits
  refine ⟨fun c _ => decode_ldB c, fun x s hwf => ⟨fun hin => ?_, exec_ldB_of_outOfRange x⟩⟩
  have hlt := (s.reg x).isLt
  have hlen : s.I.toNat + (bcdDigits (s.reg x)).length ≤ memSize := hin
  have hdigit (k : Nat) (hk : k < 3) := get_stored_inside hwf hlen (k := k) hk
  refine ⟨_, exec_ldB_of_inRange x hin,
    ⟨(s.reg x).toNat / 100, (s.reg x).toNat / 10 % 10, (s.reg x).toNat % 10, by omega, by omega, by omega, by omega,
      hdigit 0 (by decide), hdigit 1 (by decide), hdigit 2 (by decide)⟩,
    fun a ha => get_stored_outside hwf hlen ha, rfl⟩

theorem regsUpTo_fit {x : RegIdx} (hin : s.I.toNat + x.val + 1 ≤ memSize) :
    s.I.toNat + (s.regsUpTo x).length ≤ memSize := by
  rw [length_regsUpTo, ← Nat.add_assoc]
  exact hin

/-- After LD [I],Vx the byte at `I + q` is register `q` (R165). -/
theorem get_stored_regsUpTo (hwf : s.mem.wf s.cfg) {x q : RegIdx} (hin : s.I.toNat + x.val + 1 ≤ memSize)
    (hq : q ≤ x) : (s.stored s.I.toNat (s.regsUpTo x)).get s.cfg (s.I.toNat + q.val) = s.reg q := by
  have hlt : q.val < (s.regsUpTo x).length := by
    rw [length_regsUpTo]
    exact Nat.lt_succ_of_le hq
  rw [get_stored_inside hwf (regsUpTo_fit hin) hlt, getD_regsUpTo s hq]

/-- Settles O49: LD [I],Vx is the store of registers 0 to X, after the range check. -/
theorem storeRegistersToMemory : Obligations.StoreRegistersToMemory := by
  unfold Obligations.StoreRegistersToMemory
  refine ⟨fun c _ => decode_storeRegs c, fun x s hwf => ⟨fun hin => ?_, exec_storeRegs_of_outOfRange⟩⟩
  refine ⟨_, exec_storeRegs_of_inRange hin, fun q hq => get_stored_regsUpTo hwf hin hq, fun a ha => ?_, rfl⟩
  refine get_stored_outside hwf (regsUpTo_fit hin) ?_
  rw [length_regsUpTo]; omega

/-- Settles O50: LD Vx,[I] is the load of registers 0 to X, after the range check. -/
theorem loadRegistersFromMemory : Obligations.LoadRegistersFromMemory := by
  unfold Obligations.LoadRegistersFromMemory
  refine ⟨fun c _ => decode_loadRegs c, fun x s => ⟨fun hin => ?_, exec_loadRegs_of_outOfRange⟩⟩
  exact ⟨_, exec_loadRegs_of_inRange hin, fun q hq => (loadUpTo_get _ _ _ _ _ _).trans (if_pos hq),
    fun q hq => (loadUpTo_get _ _ _ _ _ _).trans (if_neg (not_le.2 hq)), rfl⟩

/-- Settles O51: the load reads, at each address, the register the store put there. -/
theorem loadAfterStoreRestoresTheRegisters : Obligations.LoadAfterStoreRestoresTheRegisters := by
  unfold Obligations.LoadAfterStoreRestoresTheRegisters
  intro x s t u hwf hin hstore hcfg hmem hI
  rw [exec_storeRegs_of_inRange hin] at hstore
  cases hstore
  have hI' : u.I = s.I := hI
  refine ⟨_, exec_loadRegs_of_inRange (by rwa [hI']), fun q hq => ?_⟩
  calc (loadUpTo u.mem u.cfg u.I.toNat x u.x).get q
    _ = u.mem.get u.cfg (u.I.toNat + q.val) := by rw [loadUpTo_get, if_pos hq]
    _ = (s.stored s.I.toNat (s.regsUpTo x)).get s.cfg (s.I.toNat + q.val) := by rw [hI', hmem, hcfg]; rfl
    _ = s.reg q := get_stored_regsUpTo hwf hin hq

/-- Settles O52: the two bytes the fetch reads are the first two registers stored. -/
theorem storedBytesAreTheNextFetchedWord : Obligations.StoredBytesAreTheNextFetchedWord := by
  unfold Obligations.StoredBytesAreTheNextFetchedWord
  intro x s t hwf hx hI hin hstore
  rw [exec_storeRegs_of_inRange hin] at hstore
  cases hstore
  have hzero := get_stored_regsUpTo hwf hin (q := 0) (Fin.zero_le x)
  have hone := get_stored_regsUpTo hwf hin (q := 1) hx
  refine ⟨rfl, ?_⟩
  rw [State.fetchWord, setMem_pc, ← hI]
  exact congrArg₂ wordOfBytes hzero hone

end Sys2Proof.Machine
end

section
/-! PROOFS. Drawing: the pixels a draw inverts, and its collisions (`46_draw.md` R135 to R141). -/

namespace Sys2Proof.Machine

/-- Settles O53: the mapping of R48 is injective on the screen and stays inside the video region. -/
theorem pixelsAreDistinctVideoBits : Obligations.PixelsAreDistinctVideoBits := by
  unfold Obligations.PixelsAreDistinctVideoBits
  exact fun c px py qx qy hpx hpy hqx _ => ⟨pixelAddr_inVideo hpx hpy, pixelBit_lt px, pixel_injective hpx hqx⟩

/-- `cv'` is `cv` with exactly the pixels of `P` inverted, and the collisions of those pixels added. -/
structure Painted (c : Config) (P : Nat → Nat → Prop) (cv cv' : Canvas) : Prop where
  inside : ∀ qx qy, qx < 64 → qy < 32 → P qx qy → cv'.mem.pixel c qx qy = !cv.mem.pixel c qx qy
  outside : ∀ qx qy, qx < 64 → qy < 32 → ¬P qx qy → cv'.mem.pixel c qx qy = cv.mem.pixel c qx qy
  hit : cv'.hit = true ↔ cv.hit = true ∨ ∃ qx qy, qx < 64 ∧ qy < 32 ∧ P qx qy ∧ cv.mem.pixel c qx qy = true

section
variable {c : Config} {P Q : Nat → Nat → Prop} {cv cv' cv'' : Canvas}

theorem Painted.congr (h : Painted c P cv cv') (hPQ : ∀ qx qy, P qx qy ↔ Q qx qy) : Painted c Q cv cv' := by
  obtain rfl : P = Q := funext fun qx => funext fun qy => propext (hPQ qx qy)
  exact h

theorem Painted.nothing (hP : ∀ qx qy, ¬P qx qy) : Painted c P cv cv where
  inside qx qy _ _ h := absurd h (hP qx qy)
  outside _ _ _ _ _ := rfl
  hit := by simp [hP]

theorem Painted.flip (hwf : cv.mem.wf c) {px py : Nat} (hx : px < 64) (hy : py < 32) :
    Painted c (fun qx qy => qx = px ∧ qy = py) cv (cv.flip c px py) where
  inside qx qy hqx _ h := by rw [flip_pixel cv hwf hx hqx, decide_eq_true h, Bool.xor_true]
  outside qx qy hqx _ h := by rw [flip_pixel cv hwf hx hqx, decide_eq_false h, Bool.xor_false]
  hit := by
    rw [flip_hit, Bool.or_eq_true]
    refine or_congr_right ⟨fun h => ⟨px, py, hx, hy, ⟨rfl, rfl⟩, h⟩, ?_⟩
    rintro ⟨_, _, -, -, ⟨rfl, rfl⟩, h⟩
    exact h

/-- Two paintings without a common pixel are one: the second meets the pixels as the first found them. -/
theorem Painted.trans (h : Painted c P cv cv') (h' : Painted c Q cv' cv'') (hdisj : ∀ qx qy, P qx qy → ¬Q qx qy) :
    Painted c (fun qx qy => P qx qy ∨ Q qx qy) cv cv'' where
  inside qx qy hx hy hPQ := by
    rcases hPQ with hP | hQ
    · rw [h'.outside qx qy hx hy (hdisj qx qy hP), h.inside qx qy hx hy hP]
    · rw [h'.inside qx qy hx hy hQ, h.outside qx qy hx hy fun hP => hdisj qx qy hP hQ]
  outside qx qy hx hy hPQ := by
    obtain ⟨hP, hQ⟩ := not_or.1 hPQ
    rw [h'.outside qx qy hx hy hQ, h.outside qx qy hx hy hP]
  hit := by
    have hseen (qx qy : Nat) (hx : qx < 64) (hy : qy < 32) (hQ : Q qx qy) :
        cv'.mem.pixel c qx qy = cv.mem.pixel c qx qy :=
      h.outside qx qy hx hy fun hP => hdisj qx qy hP hQ
    rw [h'.hit, h.hit]
    constructor
    · rintro ((hhit | ⟨qx, qy, hx, hy, hP, hlit⟩) | ⟨qx, qy, hx, hy, hQ, hlit⟩)
      · exact .inl hhit
      · exact .inr ⟨qx, qy, hx, hy, .inl hP, hlit⟩
      · exact .inr ⟨qx, qy, hx, hy, .inr hQ, by rwa [hseen qx qy hx hy hQ] at hlit⟩
    · rintro (hhit | ⟨qx, qy, hx, hy, hP | hQ, hlit⟩)
      · exact .inl (.inl hhit)
      · exact .inl (.inr ⟨qx, qy, hx, hy, hP, hlit⟩)
      · exact .inr ⟨qx, qy, hx, hy, hQ, by rwa [hseen qx qy hx hy hQ]⟩

/-! One row. -/

/-- A 1 bit of `src`, drawn in row `py` from column `vx`, lies on pixel (`qx`, `qy`); `ks` are the bits looked at. -/
def RowCovers (vx py : Nat) (src : Byte) (ks : List Nat) (qx qy : Nat) : Prop :=
  qy = py ∧ ∃ k ∈ ks, (vx + k) % 64 = qx ∧ src.getLsbD (7 - k) = true

/-- One bit of a row: what `Canvas.drawRow` folds. -/
def drawBit (c : Config) (vx py : Nat) (src : Byte) (cv : Canvas) (k : Nat) : Canvas :=
  if src.getLsbD (7 - k) then cv.flip c ((vx + k) % 64) py else cv

theorem drawRow_eq_foldl (cv : Canvas) (c : Config) (vx py : Nat) (src : Byte) :
    cv.drawRow c vx py src = (List.range 8).foldl (drawBit c vx py src) cv := rfl

theorem drawBit_wf (hc : c.videoBase + videoSize ≤ memSize) (hwf : cv.mem.wf c) (vx : Nat) {py : Nat} (hy : py < 32)
    (src : Byte) (k : Nat) : (drawBit c vx py src cv k).mem.wf c := by
  unfold drawBit
  split
  · exact flip_wf cv hc hwf (Nat.mod_lt _ (by decide)) hy
  · exact hwf

theorem drawBit_painted (hwf : cv.mem.wf c) (vx : Nat) {py : Nat} (hy : py < 32) (src : Byte) (k : Nat) :
    Painted c (RowCovers vx py src [k]) cv (drawBit c vx py src cv k) := by
  unfold drawBit
  split
  · next hbit =>
    refine (Painted.flip hwf (Nat.mod_lt _ (by decide)) hy).congr fun qx qy => ?_
    simp only [RowCovers, List.mem_singleton, exists_eq_left, hbit, and_true]
    exact ⟨fun h => ⟨h.2, h.1.symm⟩, fun h => ⟨h.2.symm, h.1⟩⟩
  · next hbit => exact .nothing fun qx qy h => by simp [RowCovers, hbit] at h

/-- The bits of a row lie on different columns, so a row inverts each pixel it covers once (R136). -/
theorem foldl_drawBit_painted (hc : c.videoBase + videoSize ≤ memSize) (vx : Nat) {py : Nat} (hy : py < 32) (src : Byte)
    {ks : List Nat} (hnodup : ks.Nodup) (hlt : ∀ k ∈ ks, k < 8) {cv : Canvas} (hwf : cv.mem.wf c) :
    Painted c (RowCovers vx py src ks) cv (ks.foldl (drawBit c vx py src) cv) := by
  induction ks generalizing cv with
  | nil => exact .nothing fun qx qy h => by simp [RowCovers] at h
  | cons k ks ih =>
    obtain ⟨hk, hks⟩ := List.nodup_cons.1 hnodup
    obtain ⟨hk8, hks8⟩ := List.forall_mem_cons.1 hlt
    have htail := ih hks hks8 (drawBit_wf hc hwf vx hy src k)
    refine ((drawBit_painted hwf vx hy src k).trans htail fun qx qy hhead hrest => ?_).congr fun qx qy => ?_
    · obtain ⟨-, k1, hk1, hcol1, -⟩ := hhead
      obtain ⟨-, k2, hk2, hcol2, -⟩ := hrest
      have hk1 : k1 = k := List.mem_singleton.1 hk1
      have := hks8 k2 hk2
      have : k2 = k := by omega
      exact hk (this ▸ hk2)
    · simp [RowCovers, and_or_left]

theorem drawRow_painted (hc : c.videoBase + videoSize ≤ memSize) (hwf : cv.mem.wf c) (vx : Nat) {py : Nat}
    (hy : py < 32) (src : Byte) : Painted c (RowCovers vx py src (List.range 8)) cv (cv.drawRow c vx py src) := by
  rw [drawRow_eq_foldl]
  exact foldl_drawBit_painted hc vx hy src List.nodup_range (fun k hk => List.mem_range.1 hk) hwf

end

/-! What a completed DRW leaves. -/

theorem drawDone_pixel (s : State) (x y : RegIdx) (n qx qy : Nat) :
    (drawDone s x y n).pixel qx qy = (s.drawn x y n).mem.pixel s.cfg qx qy := rfl

theorem drawDone_flag (s : State) (x y : RegIdx) (n : Nat) :
    (drawDone s x y n).reg 15 = flagByte (s.drawn x y n).hit :=
  setReg_reg_same (s.setMem _) flagReg _

theorem drawDone_reg_of_ne (s : State) (x y : RegIdx) (n : Nat) {q : RegIdx} (hq : q ≠ 15) :
    (drawDone s x y n).reg q = s.reg q :=
  setReg_reg_ne (s.setMem _) flagReg q _ hq

theorem flagByte_eq_one_iff (b : Bool) : flagByte b = 1 ↔ b = true := by cases b <;> decide

theorem drawDone_collides_iff (s : State) (x y : RegIdx) (n : Nat) :
    (drawDone s x y n).reg 15 = 1 ↔ (s.drawn x y n).hit = true := by
  rw [drawDone_flag, flagByte_eq_one_iff]

/-- A draw of no rows only clears VF and sets `dirty` (R140). -/
theorem drawDone_zero (s : State) (x y : RegIdx) : drawDone s x y 0 = { s with x := s.x.set 15 0, dirty := true } := rfl

/-- Settles O54: a DRW that fits is `drawDone`, which changes memory inside the video region alone. -/
theorem drwCompletesInsideTheVideoRegion : Obligations.DrwCompletesInsideTheVideoRegion := by
  unfold Obligations.DrwCompletesInsideTheVideoRegion
  refine ⟨fun c _ => decode_of_fieldG_eq_thirteen c, fun x y n s hlegal hwf => ⟨fun hfits => ?_, fun hn => ?_,
    fun hn hout => exec_drw_of_not_fits x y (not_drawFits.2 ⟨Fin.val_ne_zero_iff.2 hn, hout⟩)⟩⟩
  · have hfits : DrawFits s n := hfits.imp (congrArg Fin.val) id
    refine ⟨_, exec_drw_of_fits x y hfits, ?_, fun q hq => drawDone_reg_of_ne s x y _ hq,
      fun a ha => (drawn_keeps hlegal hwf x y n.val).2 a ha, rfl, rfl⟩
    rw [drawDone_flag]
    cases (s.drawn x y n.val).hit
    · exact .inl rfl
    · exact .inr rfl
  · subst hn
    rw [exec_drw_of_fits x y (.inl rfl)]
    exact congrArg Host.Outcome.next (drawDone_zero s x y)

theorem drawn_succ (s : State) (x y : RegIdx) (n : Nat) :
    s.drawn x y (n + 1) = (s.drawn x y n).drawRow s.cfg (s.reg x).toNat (((s.reg y).toNat + n) % 32)
      ((s.drawn x y n).mem.get s.cfg (s.I.toNat + n)) := by
  rw [State.drawn, drawRows_succ, ea_zero]
  rfl

/-- One more row paints that row on the canvas of the rows before it (R139). -/
theorem drawn_succ_painted {s : State} (hlegal : legalConfig s.cfg) (hwf : s.mem.wf s.cfg) (x y : RegIdx) (n : Nat) :
    Painted s.cfg (RowCovers (s.reg x).toNat (((s.reg y).toNat + n) % 32)
      ((s.drawn x y n).mem.get s.cfg (s.I.toNat + n)) (List.range 8)) (s.drawn x y n) (s.drawn x y (n + 1)) := by
  rw [drawn_succ]
  exact drawRow_painted (legal_video hlegal) (drawn_keeps hlegal hwf x y n).1 _ (Nat.mod_lt _ (by decide)) _

/-- Settles O55: the longer draw is one row more on the canvas the shorter draw left. -/
theorem drwAddsOneRowToTheShorterDraw : Obligations.DrwAddsOneRowToTheShorterDraw := by
  unfold Obligations.DrwAddsOneRowToTheShorterDraw
  intro x y n n' s t u hlegal hwf hn' hin ht hu
  rw [exec_drw_of_fits x y (.inr (show s.I.toNat + n.val ≤ memSize by simp only [memSize]; omega))] at ht
  rw [exec_drw_of_fits x y (.inr hin)] at hu
  cases ht
  cases hu
  have h := drawn_succ_painted hlegal hwf x y n.val
  rw [← hn'] at h
  intro row col bit
  constructor
  · intro qx qy hx hy
    have hcovers : RowCovers (s.reg x).toNat row ((s.drawn x y n.val).mem.get s.cfg (s.I.toNat + n.val))
        (List.range 8) qx qy ↔ (qy = row ∧ ∃ c : Fin 8, col c.val = qx ∧ bit c.val = true) := by
      simp only [RowCovers, List.mem_range]
      exact and_congr_right fun _ => ⟨fun ⟨k, hk, hcol, hbit⟩ => ⟨⟨k, hk⟩, hcol, hbit⟩,
        fun ⟨k, hcol, hbit⟩ => ⟨k.val, k.isLt, hcol, hbit⟩⟩
    rw [drawDone_pixel, drawDone_pixel]
    by_cases hP : qy = row ∧ ∃ c : Fin 8, col c.val = qx ∧ bit c.val = true
    · rw [h.inside qx qy hx hy (hcovers.2 hP), decide_eq_true hP, Bool.xor_true]
    · rw [h.outside qx qy hx hy (mt hcovers.1 hP), decide_eq_false hP, Bool.xor_false]
  · rw [drawDone_collides_iff, drawDone_collides_iff, h.hit]
    refine or_congr_right ⟨?_, ?_⟩
    · rintro ⟨qx, qy, -, -, ⟨rfl, k, hk, rfl, hbit⟩, hlit⟩
      exact ⟨k, List.mem_range.1 hk, hbit, hlit⟩
    · rintro ⟨k, hk, hbit, hlit⟩
      exact ⟨col k, row, Nat.mod_lt _ (by decide), Nat.mod_lt _ (by decide),
        ⟨rfl, k, List.mem_range.2 hk, rfl, hbit⟩, hlit⟩

/-! Whole sprites whose source lies outside the video region. -/

theorem spriteCovers_succ {s : State} {x y : RegIdx} {n qx qy : Nat} :
    SpriteCovers s x y (n + 1) qx qy ↔ SpriteCovers s x y n qx qy ∨
      RowCovers (s.reg x).toNat (((s.reg y).toNat + n) % 32) (s.byte (s.I.toNat + n)) (List.range 8) qx qy := by
  constructor
  · rintro ⟨r, k, hr, hk, hcol, hrow, hbit⟩
    rcases Nat.lt_succ_iff_lt_or_eq.1 hr with hlt | rfl
    · exact .inl ⟨r, k, hlt, hk, hcol, hrow, hbit⟩
    · exact .inr ⟨hrow.symm, k, List.mem_range.2 hk, hcol, hbit⟩
  · rintro (⟨r, k, hr, hk, hcol, hrow, hbit⟩ | ⟨hrow, k, hk, hcol, hbit⟩)
    · exact ⟨r, k, Nat.lt_succ_of_lt hr, hk, hcol, hrow, hbit⟩
    · exact ⟨n, k, Nat.lt_succ_self n, List.mem_range.1 hk, hcol, hrow.symm, hbit⟩

/-- The rows of a sprite of fewer than 32 lie on different rows of the screen (R136). -/
theorem not_rowCovers_of_spriteCovers {s : State} {x y : RegIdx} {n qx qy : Nat} (hn : n < 32) {src : Byte}
    (h : SpriteCovers s x y n qx qy) :
    ¬RowCovers (s.reg x).toNat (((s.reg y).toNat + n) % 32) src (List.range 8) qx qy := by
  rintro ⟨hrow, -⟩
  obtain ⟨r, -, hr, -, -, hrow', -⟩ := h
  omega

/-- A DRW whose source lies outside the video region paints exactly the pixels its sprite covers. -/
theorem drawn_painted {s : State} (hlegal : legalConfig s.cfg) (hwf : s.mem.wf s.cfg) (x y : RegIdx) {n : Nat}
    (hn : n < 32) (hsrc : ∀ r, r < n → ¬inVideo s.cfg (s.I.toNat + r)) :
    Painted s.cfg (SpriteCovers s x y n) ⟨s.mem, false⟩ (s.drawn x y n) := by
  induction n with
  | zero => exact .nothing fun qx qy ⟨r, _, hr, _⟩ => absurd hr (Nat.not_lt_zero r)
  | succ n ih =>
    have hshort := ih (by omega) fun r hr => hsrc r (Nat.lt_succ_of_lt hr)
    have hrow := drawn_succ_painted hlegal hwf x y n
    rw [(drawn_keeps hlegal hwf x y n).2 _ (hsrc n (Nat.lt_succ_self n))] at hrow
    exact (hshort.trans hrow fun qx qy h => not_rowCovers_of_spriteCovers (by omega) h).congr
      fun qx qy => spriteCovers_succ.symm

/-- Settles O56: the painted pixels are the covered ones, and the collisions those that were lit. -/
theorem drwXorsTheCoveredPixels : Obligations.DrwXorsTheCoveredPixels := by
  unfold Obligations.DrwXorsTheCoveredPixels
  intro x y n s hlegal hwf hin hsrc
  have h := drawn_painted hlegal hwf x y (by omega) hsrc
  refine ⟨_, exec_drw_of_fits x y (.inr hin),
    fun qx qy hx hy => ⟨h.inside qx qy hx hy, h.outside qx qy hx hy⟩, ?_⟩
  rw [drawDone_collides_iff, h.hit]
  simp only [Bool.false_eq_true, false_or]
  rfl

/-- The state a draw leaves has the same sprite at the same place, when neither position register is VF. -/
theorem spriteCovers_drawDone {s : State} (hlegal : legalConfig s.cfg) (hwf : s.mem.wf s.cfg) {x y : RegIdx}
    (hx : x ≠ 15) (hy : y ≠ 15) {n : Nat} (hsrc : ∀ r, r < n → ¬inVideo s.cfg (s.I.toNat + r)) (qx qy : Nat) :
    SpriteCovers (drawDone s x y n) x y n qx qy ↔ SpriteCovers s x y n qx qy := by
  have hbyte (r : Nat) (hr : r < n) : (drawDone s x y n).byte ((drawDone s x y n).I.toNat + r) = s.byte (s.I.toNat + r) :=
    (drawn_keeps hlegal hwf x y n).2 _ (hsrc r hr)
  rw [SpriteCovers, drawDone_reg_of_ne s x y n hx, drawDone_reg_of_ne s x y n hy]
  refine exists_congr fun r => exists_congr fun k => and_congr_right fun hr => ?_
  rw [hbyte r hr]

/-- Settles O57: the second draw paints the same pixels again, so every pixel is back, and no other byte ever moved. -/
theorem drwTwiceRestoresMemory : Obligations.DrwTwiceRestoresMemory := by
  unfold Obligations.DrwTwiceRestoresMemory
  intro x y n s t u hlegal hwf hx hy hin hsrc ht hu
  rw [exec_drw_of_fits x y (.inr hin)] at ht
  cases ht
  rw [exec_drw_of_fits (s := drawDone s x y n.val) x y (.inr hin)] at hu
  cases hu
  obtain ⟨hwf1, hout1⟩ := drawn_keeps hlegal hwf x y n.val
  obtain ⟨hwf2, hout2⟩ := drawn_keeps (s := drawDone s x y n.val) hlegal hwf1 x y n.val
  have first := drawn_painted hlegal hwf x y (by omega) hsrc
  have second := (drawn_painted (s := drawDone s x y n.val) hlegal hwf1 x y (by omega) hsrc).congr
    (spriteCovers_drawDone hlegal hwf hx hy hsrc)
  constructor
  · refine memory_eq_of_pixels hwf2 hwf (fun a ha => (hout2 a ha).trans (hout1 a ha)) fun qx qy hqx hqy => ?_
    by_cases hcov : SpriteCovers s x y n.val qx qy
    · exact (second.inside qx qy hqx hqy hcov).trans
        ((congrArg not (first.inside qx qy hqx hqy hcov)).trans (Bool.not_not _))
    · exact (second.outside qx qy hqx hqy hcov).trans (first.outside qx qy hqx hqy hcov)
  · rw [drawDone_collides_iff, second.hit]
    simp only [Bool.false_eq_true, false_or]
    refine exists_congr fun qx => exists_congr fun qy => and_congr_right fun hqx => and_congr_right fun hqy =>
      and_congr_right fun hcov => ?_
    have hinv : (s.drawn x y n.val).mem.pixel s.cfg qx qy = !s.pixel qx qy := first.inside qx qy hqx hqy hcov
    change (s.drawn x y n.val).mem.pixel s.cfg qx qy = true ↔ _
    rw [hinv, Bool.not_eq_true']

end Sys2Proof.Machine
end
